-- ==== Sys2Proof/Word.lean ====
section
/-! DEFINITION. Word types of the LCD parallel-interface sequencer (spec 00_scope R8: bit 0 is the least significant
bit, every value is unsigned unless a rule says signed). -/

namespace Sys2Proof

/-- A command byte, a data byte, a payload byte, or one of the two mode masks: 8 bits (R10, R50). -/
abbrev Byte := BitVec 8

/-- One half of a byte as it stands on the four data lines (R9 "Nibble", R17). -/
abbrev Nibble := BitVec 4

/-- The 32-bit header word of a host request (R62). -/
abbrev Word := BitVec 32

end Sys2Proof
end

