-- ==== Sys2Proof/Config.lean ====
section
/-! DEFINITION. The implementation parameters a model takes (spec 00_scope R6). The waits, the latency threshold, the
buffer size and the floating-point format are fields of `Params`, so that every program of the block is a function of
them and a claim can be made for ALL their values; the value the model's machine runs with is
`Sys2Proof.Machine.params` (Machine/Params.lean), and Machine/Parametric.lean has the machine at any other value. The
layout constants of the display are numbers here, read by the types and the operations they bound. -/

namespace Sys2Proof

/-- The parameters of R6 that an implementation fixes. Times are whole microseconds (R7). `fmtFloat` is the
configuration field of R150: the text of a binary64 value, or none. -/
structure Params where
  tPwr : Nat
  tELow : Nat
  tEHigh : Nat
  tNibble : Nat
  tLong : Nat
  tShort : Nat
  tPrime0 : Nat
  tPrime1 : Nat
  tPrime2 : Nat
  longThreshold : Byte
  fmtBuf : Nat
  fmtFloat : BitVec 64 → Option (List Byte)

/-- The constraints the spec puts on the parameters: the priming delays strictly decrease (R6, R102), and 16 bits hold
every wait (R18). -/
abbrev Params.wf (P : Params) : Prop :=
  P.tPrime0 > P.tPrime1 ∧ P.tPrime1 > P.tPrime2 ∧
  P.tPwr < 65536 ∧ P.tELow < 65536 ∧ P.tEHigh < 65536 ∧ P.tNibble < 65536 ∧ P.tLong < 65536 ∧ P.tShort < 65536 ∧
  P.tPrime0 < 65536

namespace Config

/-- `COLS` (R6): column ∈ [0,16). -/
def cols : Nat := 16

/-- `ROWS` (R6): row ∈ {0,1}. -/
def rows : Nat := 2

/-- `ROW_BASE[0]` and `ROW_BASE[1]` (R6, R32). -/
def rowBases : List (BitVec 7) := [0x00#7, 0x40#7]

/-- `GLYPH_SLOTS` (R6): 8 programmable glyphs. -/
def glyphSlots : Nat := 8

/-- `GLYPH_ROWS` (R6): 8 pattern bytes a glyph. -/
abbrev glyphRows : Nat := 8

/-- `FRAC_DIGITS` (R6): digits after the point in WRITE_FLOAT's text. -/
def fracDigits : Nat := 6

/-- `INT_WIDTH` (R6): the width of WRITE_INT's operand. -/
abbrev intWidth : Nat := 32

end Config

end Sys2Proof
end

