-- ==== Sys2Proof/Machine/Format.lean ====
section
/-! DEFINITION. The two decimal formats of spec 43_glyph_and_text: `dec` (R146), and the default of the configuration
field `fmtFloat` (R150), computed exactly in the integers. -/

namespace Sys2Proof.Machine

/-- The byte of a decimal digit: `0x30 + d` (R146). -/
def digitByte (d : Nat) : Byte := BitVec.ofNat 8 (0x30 + d)

/-- The digits of `m` in front of `acc`; the first argument is fuel. -/
def digitsOnto : Nat → Nat → List Byte → List Byte
  | 0, _, acc => acc
  | fuel + 1, m, acc =>
    if m < 10 then digitByte m :: acc else digitsOnto fuel (m / 10) (digitByte (m % 10) :: acc)

/-- `digits` (R146): most significant first, no leading zero; `digits 0` is the one byte 0x30. A number of `k` bits has at
most `k` decimal digits, so the fuel never runs out. -/
def digits (m : Nat) : List Byte := digitsOnto (m.log2 + 1) m []

/-- `dec` (R146). The negation is taken in the integers. -/
def dec (v : Int) : List Byte :=
  if v < 0 then 0x2D#8 :: digits v.natAbs else digits v.natAbs

/-- The last `k` decimal digits of `m`, leading zeros kept. -/
def fixedDigits : Nat → Nat → List Byte
  | 0, _ => []
  | k + 1, m => fixedDigits k (m / 10) ++ [digitByte (m % 10)]

/-- The quotient rounded to the nearest integer, ties to even (R150). -/
def roundHalfEven (num den : Nat) : Nat :=
  if 2 * (num % den) < den then num / den
  else if den < 2 * (num % den) then num / den + 1
  else if (num / den) % 2 = 0 then num / den else num / den + 1

/-! ### IEEE 754 binary64 (R63, R149) -/

/-- The sign bit. -/
def floatSign (x : BitVec 64) : Bool := x.getLsbD 63

/-- The biased exponent field. -/
def floatExp (x : BitVec 64) : Nat := (x.extractLsb' 52 11).toNat

/-- The fraction field. -/
def floatFrac (x : BitVec 64) : Nat := (x.extractLsb' 0 52).toNat

/-- Neither an infinity nor a NaN. -/
def floatFinite (x : BitVec 64) : Bool := floatExp x != 2047

/-- The significand as an integer: with the hidden bit unless the value is subnormal or zero. -/
def floatMant (x : BitVec 64) : Nat := if floatExp x = 0 then floatFrac x else floatFrac x + 2 ^ 52

/-- The weight of the significand's last bit is `2 ^ (floatScale x - 1075)`: a subnormal has the scale of exponent 1. -/
def floatScale (x : BitVec 64) : Nat := max (floatExp x) 1

/-- `q` of R150: `|x| * 10^6` rounded to an integer, ties to even, computed exactly. -/
def floatMicros (x : BitVec 64) : Nat :=
  if 1075 ≤ floatScale x then floatMant x * 2 ^ (floatScale x - 1075) * 10 ^ Config.fracDigits
  else roundHalfEven (floatMant x * 10 ^ Config.fracDigits) (2 ^ (1075 - floatScale x))

/-- The default `fmtFloat` (R150, G16): sign from the sign bit, integer part, point, exactly six digits; none for an
infinity or a NaN. -/
def fmtFloat (x : BitVec 64) : Option (List Byte) :=
  if floatFinite x then
    some ((if floatSign x then [0x2D#8] else []) ++ digits (floatMicros x / 10 ^ Config.fracDigits) ++
      0x2E#8 :: fixedDigits Config.fracDigits (floatMicros x % 10 ^ Config.fracDigits))
  else none

end Sys2Proof.Machine
end

