-- ==== Sys2Proof/Machine/Params.lean ====
section
/-! DEFINITION. The parameter values the model's machine runs with: the defaults of spec 00_scope R6. -/

namespace Sys2Proof.Machine

/-- The defaults of R6. -/
def params : Params where
  tPwr := 50000
  tELow := 1
  tEHigh := 1
  tNibble := 1000
  tLong := 1520
  tShort := 37
  tPrime0 := 4100
  tPrime1 := 100
  tPrime2 := 37
  longThreshold := 0x04
  fmtBuf := 32
  fmtFloat := fmtFloat

end Sys2Proof.Machine
end

