-- ==== Sys2Proof/Syntax.lean ====
section
/-! DEFINITION. The instructions: one constructor for each row of spec/opcode_table.json, that is the 20 host requests
(format HOSTREQ, R64) and the 8 LCD command classes (format LCDCMD, R51, R52); and the form in which the host hands one to
the block. Header fields an operation does not use are ignored at decode (R65) and so are no operands here. -/

namespace Sys2Proof

/-- One operation of the block. -/
inductive Instr where
  /-- `INIT` (R100). -/
  | init
  /-- `SEND_CMD v` (R83). -/
  | sendCmd (v : Byte)
  /-- `SEND_DATA v` (R85). -/
  | sendData (v : Byte)
  /-- `CLEAR` (R111). -/
  | clear
  /-- `HOME` (R112). -/
  | home
  /-- `SET_CURSOR col, row` (R113). -/
  | setCursor (col row : Byte)
  /-- `DISPLAY_ON` (R114). -/
  | displayOn
  /-- `DISPLAY_OFF` (R115). -/
  | displayOff
  /-- `CURSOR_ON` (R116). -/
  | cursorOn
  /-- `CURSOR_OFF` (R117). -/
  | cursorOff
  /-- `BLINK_ON` (R118). -/
  | blinkOn
  /-- `BLINK_OFF` (R119). -/
  | blinkOff
  /-- `LEFT_TO_RIGHT` (R120). -/
  | leftToRight
  /-- `RIGHT_TO_LEFT` (R121). -/
  | rightToLeft
  /-- `SCROLL_LEFT` (R122). -/
  | scrollLeft
  /-- `SCROLL_RIGHT` (R123). -/
  | scrollRight
  /-- `CREATE_GLYPH slot, p` (R140): the pattern has exactly `GLYPH_ROWS` = 8 bytes, by its type (R142). -/
  | createGlyph (slot : Byte) (p : Vector Byte Config.glyphRows)
  /-- `WRITE_STRING p` (R143): at most 255 bytes (`WellFormed`). -/
  | writeString (p : List Byte)
  /-- `WRITE_INT v` (R147): the `INT_WIDTH` = 32 bits are read as a signed number. -/
  | writeInt (v : BitVec Config.intWidth)
  /-- `WRITE_FLOAT x` (R149): the 64 bits are an IEEE 754 binary64 value. -/
  | writeFloat (x : BitVec 64)
  /-- `LCD_CLEAR`, pattern `00000001` (R51, R52). -/
  | lcdClear
  /-- `LCD_HOME`, pattern `0000001x` (R52). -/
  | lcdHome (x : Bool)
  /-- `LCD_ENTRY_MODE`, pattern `000001IS` (R53). -/
  | lcdEntryMode (inc shift : Bool)
  /-- `LCD_DISPLAY_CTRL`, pattern `00001DCB` (R54). -/
  | lcdDisplayCtrl (disp cursor blink : Bool)
  /-- `LCD_SHIFT`, pattern `0001SRxx` (R55). -/
  | lcdShift (move right : Bool) (x : BitVec 2)
  /-- `LCD_FUNCTION`, pattern `001LNFxx` (R56). -/
  | lcdFunction (bus8 lines2 font10 : Bool) (x : BitVec 2)
  /-- `LCD_SET_CGRAM`, pattern `01aaaaaa` (R57). -/
  | lcdSetCgram (a : BitVec 6)
  /-- `LCD_SET_DDRAM`, pattern `1aaaaaaa` (R58). -/
  | lcdSetDdram (a : BitVec 7)
  deriving DecidableEq, Repr

/-- What the host offers at its one port (R167, R190): a host request, which is a 32-bit header and the payload bytes
that follow it (R50, R62, R63), or one LCD command byte handed as it is to the send-command entry point of R83
(DESIGN CHOICE, assumption 3). -/
inductive Offer where
  | request (header : Word) (payload : List Byte)
  | command (c : Byte)
  deriving DecidableEq, Repr

end Sys2Proof
end

