-- ==== Sys2Proof/WellFormed.lean ====
section
/-! DEFINITION. The checks on an instruction that its types do not make, and the check on a host offer. Every other
operand is a bit vector of the width its field has, of which every value is legal (R65, R67). -/

namespace Sys2Proof

/-- The payload count `n` is one byte, so a string has at most 255 bytes (R62, R143). -/
def wellFormed (i : Instr) : Bool :=
  match i with
  | .writeString p => decide (p.length ≤ 255)
  | .init | .sendCmd _ | .sendData _ | .clear | .home | .setCursor _ _ | .displayOn | .displayOff | .cursorOn
  | .cursorOff | .blinkOn | .blinkOff | .leftToRight | .rightToLeft | .scrollLeft | .scrollRight | .createGlyph _ _
  | .writeInt _ | .writeFloat _ | .lcdClear | .lcdHome _ | .lcdEntryMode _ _ | .lcdDisplayCtrl _ _ _ | .lcdShift _ _ _
  | .lcdFunction _ _ _ _ | .lcdSetCgram _ | .lcdSetDdram _ => true

/-- The check as a proposition. -/
abbrev WellFormed (i : Instr) : Prop := wellFormed i = true

/-- "`n` bytes `p[0]` to `p[n-1]` follow the header" (R63): an offered request carries exactly the bytes its header
counts. A raw command byte is always well formed. -/
def Offer.wf : Offer → Bool
  | .request h p => decide (p.length = (h.extractLsb' 0 8).toNat)
  | .command _ => true

end Sys2Proof
end

