-- ==== Sys2Proof/Decode.lean ====
section
/-! DEFINITION. The decoder of host offers (R62 to R66) and of LCD command bytes (R52), total and rejecting by name; after
it the encoder, written from the same tables; and the opcode table's rows as data. -/

namespace Sys2Proof

/-- Why a host offer is no legal request. `unassignedOp` and `wrongCount` are the illegal requests of R66.
`malformed` is no hardware case: the offer does not carry the bytes its own header counts (R62, R63). -/
inductive Reject where
  | unassignedOp
  | wrongCount
  | malformed
  deriving DecidableEq, Repr

/-! ### Fields of the header (R62) -/

/-- `op`, bits 31:24. -/
def opField (h : Word) : Byte := h.extractLsb' 24 8

/-- `a`, bits 23:16. -/
def aField (h : Word) : Byte := h.extractLsb' 16 8

/-- `b`, bits 15:8. -/
def bField (h : Word) : Byte := h.extractLsb' 8 8

/-- `n`, bits 7:0: the number of payload bytes. -/
def nField (h : Word) : Byte := h.extractLsb' 0 8

/-! ### Payload assembly (R63): least significant byte first -/

/-- The 32-bit operand of WRITE_INT. -/
def word32Of (p0 p1 p2 p3 : Byte) : BitVec Config.intWidth := p3 ++ p2 ++ p1 ++ p0

/-- The 64-bit operand of WRITE_FLOAT. -/
def word64Of (p0 p1 p2 p3 p4 p5 p6 p7 : Byte) : BitVec 64 :=
  p7 ++ p6 ++ p5 ++ p4 ++ p3 ++ p2 ++ p1 ++ p0

/-! ### The decoder -/

/-- An operation whose `n` is fixed at 0. -/
def bare (p : List Byte) (i : Instr) : Except Reject Instr :=
  match p with
  | [] => .ok i
  | _ :: _ => .error .wrongCount

/-- CREATE_GLYPH: `n` must be `GLYPH_ROWS` = 8 (R64, R142). -/
def glyphRequest (a : Byte) (p : List Byte) : Except Reject Instr :=
  if h : p.length = Config.glyphRows then .ok (.createGlyph a ⟨⟨p⟩, h⟩) else .error .wrongCount

/-- WRITE_INT: `n` must be 4 (R64). -/
def intRequest : List Byte → Except Reject Instr
  | [p0, p1, p2, p3] => .ok (.writeInt (word32Of p0 p1 p2 p3))
  | _ => .error .wrongCount

/-- WRITE_FLOAT: `n` must be 8 (R64). -/
def floatRequest : List Byte → Except Reject Instr
  | [p0, p1, p2, p3, p4, p5, p6, p7] => .ok (.writeFloat (word64Of p0 p1 p2 p3 p4 p5 p6 p7))
  | _ => .error .wrongCount

/-- The operation of a request whose payload is `p` (R64), by operation code. -/
def decodeOp (op a b : Byte) (p : List Byte) : Except Reject Instr :=
  match op.toNat with
  | 0x01 => bare p .init
  | 0x02 => bare p (.sendCmd a)
  | 0x03 => bare p (.sendData a)
  | 0x04 => bare p .clear
  | 0x05 => bare p .home
  | 0x06 => bare p (.setCursor a b)
  | 0x07 => bare p .displayOn
  | 0x08 => bare p .displayOff
  | 0x09 => bare p .cursorOn
  | 0x0A => bare p .cursorOff
  | 0x0B => bare p .blinkOn
  | 0x0C => bare p .blinkOff
  | 0x0D => bare p .leftToRight
  | 0x0E => bare p .rightToLeft
  | 0x0F => bare p .scrollLeft
  | 0x10 => bare p .scrollRight
  | 0x11 => glyphRequest a p
  | 0x12 => .ok (.writeString p)
  | 0x13 => intRequest p
  | 0x14 => floatRequest p
  | _ => .error .unassignedOp

/-- A host request: header and payload (R62, R63, R64). The length of the request is read from `n` alone (R62). -/
def decodeRequest (h : Word) (p : List Byte) : Except Reject Instr :=
  if p.length = (nField h).toNat then decodeOp (opField h) (aField h) (bField h) p else .error .malformed

/-- The class of an LCD command byte is given by its most significant set bit; the bits below it are the class's fields
(R52). The byte 0x00 has no class. -/
def decodeLcd (c : Byte) : Option Instr :=
  if c.getLsbD 7 then some (.lcdSetDdram (c.extractLsb' 0 7))
  else if c.getLsbD 6 then some (.lcdSetCgram (c.extractLsb' 0 6))
  else if c.getLsbD 5 then
    some (.lcdFunction (c.getLsbD 4) (c.getLsbD 3) (c.getLsbD 2) (c.extractLsb' 0 2))
  else if c.getLsbD 4 then some (.lcdShift (c.getLsbD 3) (c.getLsbD 2) (c.extractLsb' 0 2))
  else if c.getLsbD 3 then some (.lcdDisplayCtrl (c.getLsbD 2) (c.getLsbD 1) (c.getLsbD 0))
  else if c.getLsbD 2 then some (.lcdEntryMode (c.getLsbD 1) (c.getLsbD 0))
  else if c.getLsbD 1 then some (.lcdHome (c.getLsbD 0))
  else if c.getLsbD 0 then some .lcdClear
  else none

/-- What the block takes an offer to be. The raw command byte 0x00, which has no class, is sent as it is, as `SEND_CMD
0x00` sends it (R67: "The block never refuses a command byte"). -/
def decodeOffer : Offer → Except Reject Instr
  | .request h p => decodeRequest h p
  | .command c =>
    match decodeLcd c with
    | some i => .ok i
    | none => .ok (.sendCmd c)

/-! ### The encoder -/

/-- The header word `op a b n` (R62). -/
def header (op a b n : Byte) : Word := op ++ a ++ b ++ n

/-- The four payload bytes of WRITE_INT, least significant first (R63). -/
def bytes32 (v : BitVec Config.intWidth) : List Byte :=
  [v.extractLsb' 0 8, v.extractLsb' 8 8, v.extractLsb' 16 8, v.extractLsb' 24 8]

/-- The eight payload bytes of WRITE_FLOAT, least significant first (R63). -/
def bytes64 (x : BitVec 64) : List Byte :=
  [x.extractLsb' 0 8, x.extractLsb' 8 8, x.extractLsb' 16 8, x.extractLsb' 24 8,
   x.extractLsb' 32 8, x.extractLsb' 40 8, x.extractLsb' 48 8, x.extractLsb' 56 8]

/-- One bit as a field. -/
def bit (b : Bool) : BitVec 1 := BitVec.ofBool b

/-- `00000001` (R51). -/
def lcdClearByte : Byte := 0x01#8

/-- `0000001x` (R52). -/
def lcdHomeByte (x : Bool) : Byte := (0b0000001#7 ++ bit x)

/-- `000001IS` (R53). -/
def lcdEntryModeByte (inc shift : Bool) : Byte := (0b000001#6 ++ bit inc ++ bit shift)

/-- `00001DCB` (R54). -/
def lcdDisplayCtrlByte (disp cursor blink : Bool) : Byte := (0b00001#5 ++ bit disp ++ bit cursor ++ bit blink)

/-- `0001SRxx` (R55). -/
def lcdShiftByte (move right : Bool) (x : BitVec 2) : Byte := (0b0001#4 ++ bit move ++ bit right ++ x)

/-- `001LNFxx` (R56). -/
def lcdFunctionByte (bus8 lines2 font10 : Bool) (x : BitVec 2) : Byte :=
  (0b001#3 ++ bit bus8 ++ bit lines2 ++ bit font10 ++ x)

/-- `01aaaaaa` (R57). -/
def lcdSetCgramByte (a : BitVec 6) : Byte := (0b01#2 ++ a)

/-- `1aaaaaaa` (R58). -/
def lcdSetDdramByte (a : BitVec 7) : Byte := (0b1#1 ++ a)

/-- The offer that stands for an instruction; header fields it does not use are written as zeros (R65 ignores them). -/
def encode : Instr → Offer
  | .init => .request (header 0x01 0 0 0) []
  | .sendCmd v => .request (header 0x02 v 0 0) []
  | .sendData v => .request (header 0x03 v 0 0) []
  | .clear => .request (header 0x04 0 0 0) []
  | .home => .request (header 0x05 0 0 0) []
  | .setCursor col row => .request (header 0x06 col row 0) []
  | .displayOn => .request (header 0x07 0 0 0) []
  | .displayOff => .request (header 0x08 0 0 0) []
  | .cursorOn => .request (header 0x09 0 0 0) []
  | .cursorOff => .request (header 0x0A 0 0 0) []
  | .blinkOn => .request (header 0x0B 0 0 0) []
  | .blinkOff => .request (header 0x0C 0 0 0) []
  | .leftToRight => .request (header 0x0D 0 0 0) []
  | .rightToLeft => .request (header 0x0E 0 0 0) []
  | .scrollLeft => .request (header 0x0F 0 0 0) []
  | .scrollRight => .request (header 0x10 0 0 0) []
  | .createGlyph slot p => .request (header 0x11 slot 0 8) p.toList
  | .writeString p => .request (header 0x12 0 0 (BitVec.ofNat 8 p.length)) p
  | .writeInt v => .request (header 0x13 0 0 4) (bytes32 v)
  | .writeFloat x => .request (header 0x14 0 0 8) (bytes64 x)
  | .lcdClear => .command lcdClearByte
  | .lcdHome x => .command (lcdHomeByte x)
  | .lcdEntryMode inc shift => .command (lcdEntryModeByte inc shift)
  | .lcdDisplayCtrl disp cursor blink => .command (lcdDisplayCtrlByte disp cursor blink)
  | .lcdShift move right x => .command (lcdShiftByte move right x)
  | .lcdFunction bus8 lines2 font10 x => .command (lcdFunctionByte bus8 lines2 font10 x)
  | .lcdSetCgram a => .command (lcdSetCgramByte a)
  | .lcdSetDdram a => .command (lcdSetDdramByte a)

/-! ### The opcode table's words -/

/-- The offer whose bits are `w`, numbered as spec/opcode_table.json numbers them: an 8-bit word is an LCD command byte;
a wider one is a header word (bits 31:0) with its payload above it, byte `k` in bits `39+8k : 32+8k`. -/
def offerOfWord (nbits w : Nat) : Offer :=
  if nbits ≤ 8 then .command (BitVec.ofNat 8 w)
  else .request (BitVec.ofNat 32 w)
    ((List.range (w % 256)).map (fun k => BitVec.ofNat 8 (w >>> (32 + 8 * k))))

/-- The instruction the decoder reads from a table word; none where it rejects it. -/
def decodeTableWord (nbits w : Nat) : Option Instr :=
  match decodeOffer (offerOfWord nbits w) with
  | .ok i => some i
  | .error _ => none

/-- The rows of format HOSTREQ: operation, `match` and `mask` on the header word (R64). -/
def requestRow : Instr → Option (Word × Word)
  | .init => some (0x01000000, 0xFF0000FF)
  | .sendCmd _ => some (0x02000000, 0xFF0000FF)
  | .sendData _ => some (0x03000000, 0xFF0000FF)
  | .clear => some (0x04000000, 0xFF0000FF)
  | .home => some (0x05000000, 0xFF0000FF)
  | .setCursor _ _ => some (0x06000000, 0xFF0000FF)
  | .displayOn => some (0x07000000, 0xFF0000FF)
  | .displayOff => some (0x08000000, 0xFF0000FF)
  | .cursorOn => some (0x09000000, 0xFF0000FF)
  | .cursorOff => some (0x0A000000, 0xFF0000FF)
  | .blinkOn => some (0x0B000000, 0xFF0000FF)
  | .blinkOff => some (0x0C000000, 0xFF0000FF)
  | .leftToRight => some (0x0D000000, 0xFF0000FF)
  | .rightToLeft => some (0x0E000000, 0xFF0000FF)
  | .scrollLeft => some (0x0F000000, 0xFF0000FF)
  | .scrollRight => some (0x10000000, 0xFF0000FF)
  | .createGlyph _ _ => some (0x11000008, 0xFF0000FF)
  | .writeString _ => some (0x12000000, 0xFF000000)
  | .writeInt _ => some (0x13000004, 0xFF0000FF)
  | .writeFloat _ => some (0x14000008, 0xFF0000FF)
  | .lcdClear | .lcdHome _ | .lcdEntryMode _ _ | .lcdDisplayCtrl _ _ _ | .lcdShift _ _ _ | .lcdFunction _ _ _ _
  | .lcdSetCgram _ | .lcdSetDdram _ => none

/-- The rows of format LCDCMD: class, `match` and `mask` on the command byte (R52). -/
def lcdRow : Instr → Option (Byte × Byte)
  | .lcdClear => some (0x01, 0xFF)
  | .lcdHome _ => some (0x02, 0xFE)
  | .lcdEntryMode _ _ => some (0x04, 0xFC)
  | .lcdDisplayCtrl _ _ _ => some (0x08, 0xF8)
  | .lcdShift _ _ _ => some (0x10, 0xF0)
  | .lcdFunction _ _ _ _ => some (0x20, 0xE0)
  | .lcdSetCgram _ => some (0x40, 0xC0)
  | .lcdSetDdram _ => some (0x80, 0x80)
  | .init | .sendCmd _ | .sendData _ | .clear | .home | .setCursor _ _ | .displayOn | .displayOff | .cursorOn
  | .cursorOff | .blinkOn | .blinkOff | .leftToRight | .rightToLeft | .scrollLeft | .scrollRight | .createGlyph _ _
  | .writeString _ | .writeInt _ | .writeFloat _ => none

end Sys2Proof
end

