-- ==== Sys2Proof/Machine/State.lean ====
section
/-! DEFINITION. The state of the block (spec 10_state R10 to R24) as plain data, the reasons a step can stop, and the
state after reset (R21). The block has no memory of its own (20_memory), no program counter (R16), no exception register
(R160, R164) and one mode (R167). -/

namespace Sys2Proof.Machine

/-- The initialization state register's eight values (R14). -/
inductive Phase where
  | unpowered
  | priming
  | fourBitSelected
  | functionConfigured
  | displayEnabled
  | homePositioned
  | cleared
  | ready
  deriving DecidableEq, Repr

/-- A micro-operation: the only effects of the block outside its own registers (R8). -/
inductive MicroOp where
  /-- `D(n)`: the four data lines are written as a group. -/
  | d (n : Nibble)
  /-- `RS(b)`: the register-select line is written. -/
  | rs (b : Bool)
  /-- `E(b)`: the enable line is written. -/
  | e (b : Bool)
  /-- `W(t)`: wait at least `t` µs (R7). -/
  | w (t : Nat)
  deriving DecidableEq, Repr

/-- One item of a request's item list: a micro-operation or a zero-time register write (R16). -/
inductive Item where
  | micro (m : MicroOp)
  | setDC (v : Byte)
  | setDM (v : Byte)
  | setPhase (p : Phase)
  deriving DecidableEq, Repr

/-- How `step` runs the request it accepts. R16 allows both sizes of step: one item a step, or the "big step" of a whole
request. MODEL'S OWN field (assumption 2). -/
inductive Grain where
  | request
  | item
  deriving DecidableEq, Repr

/-- The block and the ends of its two interfaces.

The block's state (R10, R14 to R18): `dc`, `dm`, `phase`, `busy`, `upc`, `data`, `e`, `rs`, `dly`, and `prog`, the item
list `upc` points into.

Not state of the block (R22), held so that a run can be stated and compared: `trace`, the observation (R8), oldest first;
`port`, the offers the host has still to make, in order (R190); `resetLine`, the host's reset input (R180); `grain`. -/
structure State where
  /-- `DC`, the display control mask (R10, R11). -/
  dc : Byte
  /-- `DM`, the entry mode mask (R10, R12). -/
  dm : Byte
  /-- The initialization state register (R14). -/
  phase : Phase
  /-- 1 from acceptance until the last wait of a request has ended (R15). -/
  busy : Bool
  /-- The index in `prog` of the next item (R16). -/
  upc : Nat
  /-- The item list of the request being executed, empty when there is none (R16). -/
  prog : List Item
  /-- The `DATA` latch: bit 3 drives `DATA[3]` (R17). -/
  data : Nibble
  /-- The `E` latch, the enable strobe (R17). -/
  e : Bool
  /-- The `RS` latch, register select: low = command, high = data (R17). -/
  rs : Bool
  /-- The delay down-counter of the nibble-transfer timing controller (R18). -/
  dly : BitVec 16
  /-- Every micro-operation emitted so far, oldest first (R8). -/
  trace : List MicroOp
  /-- The requests the host offers, in the order it offers them (R190). -/
  port : List Offer
  /-- The reset input: true when the host asks for a reset (R180, R194). -/
  resetLine : Bool
  /-- The size of step `step` takes (R16). -/
  grain : Grain
  deriving DecidableEq, Repr

/-- No fault: "The block raises no exception of any kind and has no means to report one" (R160), and no behaviour is
treated as one (93_implementation_defined). The type has no constructor, so no step can end in a fault. -/
inductive Fault where
  deriving DecidableEq, Repr

/-- The requests to which the spec gives no behaviour, "it has no next state and no trace" (R174). -/
inductive Refusal where
  /-- Raised by exec's arm of an instruction that has no meaning yet; no arm raises it. Safe. -/
  | notModelled (mnemonic : String)
  /-- Raised by SET_CURSOR: column in 0..15, row neither 0 nor 1: "the model refuses" (R113, R161 X2, U1). Safe. -/
  | rowOutOfRange
  /-- Raised by WRITE_FLOAT when the format gives no text, an infinity or a NaN: "the model refuses" (R149, R161 X5, U5).
  Safe. -/
  | floatTextUndefined
  /-- Raised by WRITE_FLOAT when the text is longer than `FMT_BUF - 1` bytes: "the model refuses" (R151, R161 X4, U4).
  Safe. -/
  | floatTextTooLong
  /-- Raised by `step` when the host's offer does not carry the payload bytes its header counts, which no request on the
  port can do (R62, R63; assumption 4). Safe. -/
  | malformedOffer
  deriving DecidableEq, Repr

/-- The state right after reset (R21): every register of the block is zero and `phase` is UNPOWERED; nothing has been
emitted, nothing is offered, reset is not asked for. `grain` is the model's own choice (assumption 2). -/
def State.reset : State where
  dc := 0x00
  dm := 0x00
  phase := .unpowered
  busy := false
  upc := 0
  prog := []
  data := 0
  e := false
  rs := false
  dly := 0
  trace := []
  port := []
  resetLine := false
  grain := .request

end Sys2Proof.Machine
end

