-- ==== Sys2Proof/Machine/Ops.lean ====
section
/-! DEFINITION. The named operations over the state: the effect of a micro-operation and of an item (R8, R16), running an
item list, and the two ways a request's program is taken: run whole, or begun. The block reads and writes no memory, takes
no exception and has nothing to return from (R160, R164, R165), so there is no such operation. -/

namespace Sys2Proof.Machine

/-- `phase`'s numeric value (R14). -/
def Phase.code : Phase → BitVec 3
  | .unpowered => 0
  | .priming => 1
  | .fourBitSelected => 2
  | .functionConfigured => 3
  | .displayEnabled => 4
  | .homePositioned => 5
  | .cleared => 6
  | .ready => 7

/-- The effect of a micro-operation on the pin latches (R8, R17). -/
def MicroOp.apply (m : MicroOp) (s : State) : State :=
  match m with
  | .d n => { s with data := n }
  | .rs b => { s with rs := b }
  | .e b => { s with e := b }
  | .w _ => s

/-- `emit(m)`: "appends micro-operation `m` to the trace and applies its effect" (R8). It is recorded even when it writes
the value the line already has. -/
def emitOp (m : MicroOp) (s : State) : State :=
  { m.apply s with trace := s.trace ++ [m] }

/-- The effect of one item (R16). -/
def Item.apply (i : Item) (s : State) : State :=
  match i with
  | .micro m => emitOp m s
  | .setDC v => { s with dc := v }
  | .setDM v => { s with dm := v }
  | .setPhase p => { s with phase := p }

/-- Items in list order (R16, R87): no branch, no skip. -/
def runItems : List Item → State → State
  | [], s => s
  | i :: l, s => runItems l (i.apply s)

/-- `emit(L)` as items. -/
def emits (l : List MicroOp) : List Item := l.map .micro

/-- The micro-operations of an item list: the trace of the request (R8). -/
def emitted : List Item → List MicroOp
  | [] => []
  | .micro m :: l => m :: emitted l
  | .setDC _ :: l => emitted l
  | .setDM _ :: l => emitted l
  | .setPhase _ :: l => emitted l

/-- The item list of a request, or `refuse(reason)` (R16, R174). -/
abbrev Program := Except Refusal (List Item)

/-- The big step of R16: the whole item list at once. -/
def complete (p : Program) (s : State) : Host.Outcome State Fault Refusal :=
  match p with
  | .ok l => .next (runItems l s)
  | .error r => .refused r

/-- Acceptance of a request that is then run item by item (R15, R16): `busy` rises and `upc` stands at the first item;
a request with an empty item list leaves everything as it is and `busy` does not rise (R113, R143). -/
def begin (p : Program) (s : State) : Host.Outcome State Fault Refusal :=
  match p with
  | .ok [] => .next s
  | .ok (i :: l) => .next { s with busy := true, upc := 0, prog := i :: l, dly := 0 }
  | .error r => .refused r

end Sys2Proof.Machine
end

