-- ==== Sys2Proof/Machine/Flags.lean ====
section
/-! DEFINITION. The mode mask bits (R11, R12), the commands that carry a whole mask (R13, R53, R54), and the latency class
of a command (R84). The block has no other flag, no condition code and no predicate (R15). -/

namespace Sys2Proof.Machine

/-- `DC_DISPLAY_ON` (R11). -/
def dcDisplayOn : Byte := 0x04

/-- `DC_CURSOR_ON` (R11). -/
def dcCursorOn : Byte := 0x02

/-- `DC_BLINK_ON` (R11). -/
def dcBlinkOn : Byte := 0x01

/-- `DM_LEFT_TO_RIGHT` (R12). -/
def dmLeftToRight : Byte := 0x02

/-- `DM_SHIFT` (R12): no operation sets or clears it. -/
def dmShift : Byte := 0x01

/-- `mask | bit` (R8). -/
def setBits (mask b : Byte) : Byte := mask ||| b

/-- `mask & ~bit` (R8). -/
def clearBits (mask b : Byte) : Byte := mask &&& ~~~b

/-- The display-control command carrying the entire mask: `0x08 | DC` (R13, R54). -/
def displayControlCmd (dc : Byte) : Byte := 0x08 ||| dc

/-- The entry-mode-set command carrying the entire mask: `0x04 | DM` (R13, R53). -/
def entryModeCmd (dm : Byte) : Byte := 0x04 ||| dm

/-- The two latency classes (R84). -/
inductive Latency where
  | long
  | short
  deriving DecidableEq, Repr

/-- `class(v)`: an unsigned comparison of the command's value, nothing else (R84). -/
def latency (P : Params) (v : Byte) : Latency :=
  if v.toNat < P.longThreshold.toNat then .long else .short

/-- The wait of a command's class (R83, R84). -/
def classWait (P : Params) (v : Byte) : Nat :=
  match latency P v with
  | .long => P.tLong
  | .short => P.tShort

end Sys2Proof.Machine
end

