-- ==== Sys2Proof/Machine/Operands.lean ====
section
/-! DEFINITION. Operand forms: the two halves of a byte (R35, R82), the two address computations (R32, R33), the signed
operand of WRITE_INT (R147), and the fixed command bytes (R55, R56). -/

namespace Sys2Proof.Machine

/-- `v[7:4]`, what the nibble transfer drives onto the data lines (R35). -/
def highNibble (v : Byte) : Nibble := v.extractLsb' 4 4

/-- `(v << 4) & 0xFF`: the low nibble moved to the high position (R82). -/
def lowToHigh (v : Byte) : Byte := v <<< 4

/-- The column test of SET_CURSOR: `col < COLS`, unsigned (R113, R86). -/
def columnInRange (col : Byte) : Bool := decide (col.toNat < Config.cols)

/-- `ROW_BASE[row]` of one of the `ROWS` rows; the map is undefined for a row outside {0, 1} (R32). -/
def rowBase (row : Byte) : Option (BitVec 7) :=
  if row.toNat < Config.rows then Config.rowBases[row.toNat]? else none

/-- `cursorAddress(col, row) = ROW_BASE[row] + col`, a 7-bit DDRAM address (R32). -/
def cursorAddress (col row : Byte) : Option (BitVec 7) :=
  (rowBase row).map (fun base => base + col.setWidth 7)

/-- `slot & 0x7`: the slot modulo `GLYPH_SLOTS` = 8 (R33, R140). -/
def slotIndex (slot : Byte) : Byte := slot &&& BitVec.ofNat 8 (Config.glyphSlots - 1)

/-- `glyphAddress(slot) = (slot & 0x7) << 3`, a 6-bit CGRAM address (R33): the slots lie `GLYPH_ROWS` = 8 cells apart. -/
def glyphAddress (slot : Byte) : BitVec 6 := (slotIndex slot).setWidth 6 * BitVec.ofNat 6 Config.glyphRows

/-- `0x80 | a` (R58). -/
def setDdramCmd (a : BitVec 7) : Byte := 0x80 ||| a.setWidth 8

/-- `0x40 | a` (R57). -/
def setCgramCmd (a : BitVec 6) : Byte := 0x40 ||| a.setWidth 8

/-- The operand of WRITE_INT read as a signed number (R147). -/
def signedValue (v : BitVec Config.intWidth) : Int := v.toInt

/-- `LCD_CLEAR` (R51). -/
def clearCmd : Byte := 0x01

/-- `LCD_HOME` (R51). -/
def homeCmd : Byte := 0x02

/-- `LCD_SHIFT | SH_DISPLAY_MOVE`, to the left (R55). -/
def scrollLeftCmd : Byte := 0x18

/-- `LCD_SHIFT | SH_DISPLAY_MOVE | SH_MOVE_RIGHT` (R55). -/
def scrollRightCmd : Byte := 0x1C

/-- `LCD_FUNCTION | FN_8BIT`, the 8-bit-mode prime (R56, R102). -/
def primeCmd : Byte := 0x30

/-- `LCD_FUNCTION`, the 4-bit-mode select (R56, R103). -/
def fourBitCmd : Byte := 0x20

/-- `LCD_FUNCTION | FN_2LINE`: two lines, 5×8 font, 4-bit bus (R56, R104). -/
def functionSetCmd : Byte := 0x28

end Sys2Proof.Machine
end

