-- ==== Sys2Proof/Machine/Transfer.lean ====
section
/-! DEFINITION. The transfer primitives (spec 40_transfer_primitives): PULSE and NIBBLE, the byte, and the two public entry
points SEND_CMD and SEND_DATA, each with its program and its meaning. -/

namespace Sys2Proof.Machine

/-- `PULSE()` (R80). -/
def pulse (P : Params) : List MicroOp :=
  [.e false, .w P.tELow, .e true, .w P.tEHigh, .e false]

/-- `NIBBLE(v, f)` (R81). -/
def nibble (P : Params) (v : Byte) (f : Bool) : List MicroOp :=
  [.d (highNibble v), .rs f] ++ pulse P ++ [.d 0, .w P.tNibble]

/-- `BYTE(v, f)`: high nibble, then low nibble (R82). -/
def sendByte (P : Params) (v : Byte) (f : Bool) : List MicroOp :=
  nibble P v f ++ nibble P (lowToHigh v) f

/-- `SEND_CMD(v)`: the byte with RS low, then the classified wait (R83, R84). -/
def sendCommand (P : Params) (v : Byte) : List MicroOp :=
  sendByte P v false ++ [.w (classWait P v)]

/-- `SEND_DATA(v)`: the byte with RS high, no further wait (R85). -/
def sendDatum (P : Params) (v : Byte) : List MicroOp :=
  sendByte P v true

/-- Data bytes one after another (R36, R143). -/
def sendText (P : Params) (p : List Byte) : List MicroOp :=
  p.flatMap (sendDatum P)

/-- The program of SEND_CMD (R83). No register of the register file is written, whatever the command is. -/
def progSendCmd (P : Params) (v : Byte) : Program := .ok (emits (sendCommand P v))

/-- `SEND_CMD v` (R83). -/
def execSendCmd (v : Byte) (s : State) : Host.Outcome State Fault Refusal := complete (progSendCmd params v) s

/-- The program of SEND_DATA (R85). -/
def progSendData (P : Params) (v : Byte) : Program := .ok (emits (sendDatum P v))

/-- `SEND_DATA v` (R85). -/
def execSendData (v : Byte) (s : State) : Host.Outcome State Fault Refusal := complete (progSendData params v) s

end Sys2Proof.Machine
end

