-- ==== Sys2Proof/Machine/Presentation.lean ====
section
/-! DEFINITION. The thirteen presentation operations (spec 42_presentation), each with its program and its meaning. -/

namespace Sys2Proof.Machine

/-- Compose-mask-then-send on `DC` (R110): the register write is the first item, the command carries the whole new mask. -/
def toggleDC (P : Params) (new : Byte) : List Item :=
  .setDC new :: emits (sendCommand P (displayControlCmd new))

/-- Compose-mask-then-send on `DM` (R110). -/
def toggleDM (P : Params) (new : Byte) : List Item :=
  .setDM new :: emits (sendCommand P (entryModeCmd new))

/-- The program of CLEAR (R111). -/
def progClear (P : Params) : Program := .ok (emits (sendCommand P clearCmd))

/-- `CLEAR` (R111). -/
def execClear (s : State) : Host.Outcome State Fault Refusal := complete (progClear params) s

/-- The program of HOME (R112). -/
def progHome (P : Params) : Program := .ok (emits (sendCommand P homeCmd))

/-- `HOME` (R112). -/
def execHome (s : State) : Host.Outcome State Fault Refusal := complete (progHome params) s

/-- The program of SET_CURSOR (R113): the column is tested first, a bad column is the empty list whatever the row is; a
good column with a row outside {0, 1} is refused. -/
def progSetCursor (P : Params) (col row : Byte) : Program :=
  if columnInRange col then
    match cursorAddress col row with
    | some a => .ok (emits (sendCommand P (setDdramCmd a)))
    | none => .error .rowOutOfRange
  else .ok []

/-- `SET_CURSOR col, row` (R113). -/
def execSetCursor (col row : Byte) (s : State) : Host.Outcome State Fault Refusal :=
  complete (progSetCursor params col row) s

/-- The program of DISPLAY_ON (R114). -/
def progDisplayOn (P : Params) (dc : Byte) : Program := .ok (toggleDC P (setBits dc dcDisplayOn))

/-- `DISPLAY_ON` (R114). -/
def execDisplayOn (s : State) : Host.Outcome State Fault Refusal := complete (progDisplayOn params s.dc) s

/-- The program of DISPLAY_OFF (R115). -/
def progDisplayOff (P : Params) (dc : Byte) : Program := .ok (toggleDC P (clearBits dc dcDisplayOn))

/-- `DISPLAY_OFF` (R115). -/
def execDisplayOff (s : State) : Host.Outcome State Fault Refusal := complete (progDisplayOff params s.dc) s

/-- The program of CURSOR_ON (R116). -/
def progCursorOn (P : Params) (dc : Byte) : Program := .ok (toggleDC P (setBits dc dcCursorOn))

/-- `CURSOR_ON` (R116). -/
def execCursorOn (s : State) : Host.Outcome State Fault Refusal := complete (progCursorOn params s.dc) s

/-- The program of CURSOR_OFF (R117). -/
def progCursorOff (P : Params) (dc : Byte) : Program := .ok (toggleDC P (clearBits dc dcCursorOn))

/-- `CURSOR_OFF` (R117). -/
def execCursorOff (s : State) : Host.Outcome State Fault Refusal := complete (progCursorOff params s.dc) s

/-- The program of BLINK_ON (R118). -/
def progBlinkOn (P : Params) (dc : Byte) : Program := .ok (toggleDC P (setBits dc dcBlinkOn))

/-- `BLINK_ON` (R118). -/
def execBlinkOn (s : State) : Host.Outcome State Fault Refusal := complete (progBlinkOn params s.dc) s

/-- The program of BLINK_OFF (R119). -/
def progBlinkOff (P : Params) (dc : Byte) : Program := .ok (toggleDC P (clearBits dc dcBlinkOn))

/-- `BLINK_OFF` (R119). -/
def execBlinkOff (s : State) : Host.Outcome State Fault Refusal := complete (progBlinkOff params s.dc) s

/-- The program of LEFT_TO_RIGHT (R120). -/
def progLeftToRight (P : Params) (dm : Byte) : Program := .ok (toggleDM P (setBits dm dmLeftToRight))

/-- `LEFT_TO_RIGHT` (R120). -/
def execLeftToRight (s : State) : Host.Outcome State Fault Refusal := complete (progLeftToRight params s.dm) s

/-- The program of RIGHT_TO_LEFT (R121). -/
def progRightToLeft (P : Params) (dm : Byte) : Program := .ok (toggleDM P (clearBits dm dmLeftToRight))

/-- `RIGHT_TO_LEFT` (R121). -/
def execRightToLeft (s : State) : Host.Outcome State Fault Refusal := complete (progRightToLeft params s.dm) s

/-- The program of SCROLL_LEFT (R122). -/
def progScrollLeft (P : Params) : Program := .ok (emits (sendCommand P scrollLeftCmd))

/-- `SCROLL_LEFT` (R122). -/
def execScrollLeft (s : State) : Host.Outcome State Fault Refusal := complete (progScrollLeft params) s

/-- The program of SCROLL_RIGHT (R123). -/
def progScrollRight (P : Params) : Program := .ok (emits (sendCommand P scrollRightCmd))

/-- `SCROLL_RIGHT` (R123). -/
def execScrollRight (s : State) : Host.Outcome State Fault Refusal := complete (progScrollRight params) s

end Sys2Proof.Machine
end

