-- ==== Sys2Proof/Machine/Init.lean ====
section
/-! DEFINITION. The initialization sequence (spec 41_init_sequence). -/

namespace Sys2Proof.Machine

/-- One single-nibble transfer and the wait after it (R102, R103). -/
def singleNibble (P : Params) (v : Byte) (wait : Nat) : List MicroOp := nibble P v false ++ [.w wait]

/-- The power-on wait, the three primes and the 4-bit-mode select (R100, R102, R103). -/
def priming (P : Params) : List MicroOp :=
  [.w P.tPwr] ++ singleNibble P primeCmd P.tPrime0 ++ singleNibble P primeCmd P.tPrime1 ++
    singleNibble P primeCmd P.tPrime2 ++ singleNibble P fourBitCmd P.tShort

/-- `DC` after INIT's display-enable (R100). -/
def initDC1 (dc : Byte) : Byte := setBits dc dcDisplayOn

/-- `DC` after INIT's cursor-disable (R100). -/
def initDC2 (dc : Byte) : Byte := clearBits (initDC1 dc) dcCursorOn

/-- `DC` after INIT's blink-disable, and so after INIT (R100). -/
def initDC3 (dc : Byte) : Byte := clearBits (initDC2 dc) dcBlinkOn

/-- The item list of INIT (R100): its tail is DISPLAY_ON, HOME, CLEAR, CURSOR_OFF, BLINK_OFF run inline (R105). -/
def initItems (P : Params) (dc : Byte) : List Item :=
  [.setPhase .priming] ++ emits (priming P) ++
  [.setPhase .fourBitSelected] ++ emits (sendCommand P functionSetCmd) ++
  [.setPhase .functionConfigured] ++ toggleDC P (initDC1 dc) ++
  [.setPhase .displayEnabled] ++ emits (sendCommand P homeCmd) ++
  [.setPhase .homePositioned] ++ emits (sendCommand P clearCmd) ++
  [.setPhase .cleared] ++ toggleDC P (initDC2 dc) ++ toggleDC P (initDC3 dc) ++
  [.setPhase .ready]

/-- The program of INIT (R100). -/
def progInit (P : Params) (dc : Byte) : Program := .ok (initItems P dc)

/-- `INIT` (R100): it may be requested in any phase and does not zero the masks (R107). -/
def execInit (s : State) : Host.Outcome State Fault Refusal := complete (progInit params s.dc) s

end Sys2Proof.Machine
end

