-- ==== Sys2Proof/Machine/LcdCommand.lean ====
section
/-! DEFINITION. The eight LCD command classes (spec 30_encoding R51 to R58). What the block does with an LCD command byte
is to send it: "An LCD command byte is 8 bits, sent by SEND_CMD with `RS = 0`" (R50), with the wait of its latency class
(R84) and without touching the mode masks (R83). What the display does with it is outside the block (00_scope R4). -/

namespace Sys2Proof.Machine

/-- The program of LCD_CLEAR (R51). -/
def progLcdClear (P : Params) : Program := .ok (emits (sendCommand P lcdClearByte))

/-- `LCD_CLEAR` (R51). -/
def execLcdClear (s : State) : Host.Outcome State Fault Refusal := complete (progLcdClear params) s

/-- The program of LCD_HOME (R52). -/
def progLcdHome (P : Params) (x : Bool) : Program := .ok (emits (sendCommand P (lcdHomeByte x)))

/-- `LCD_HOME` (R52). -/
def execLcdHome (x : Bool) (s : State) : Host.Outcome State Fault Refusal := complete (progLcdHome params x) s

/-- The program of LCD_ENTRY_MODE (R53). -/
def progLcdEntryMode (P : Params) (inc shift : Bool) : Program :=
  .ok (emits (sendCommand P (lcdEntryModeByte inc shift)))

/-- `LCD_ENTRY_MODE` (R53). -/
def execLcdEntryMode (inc shift : Bool) (s : State) : Host.Outcome State Fault Refusal :=
  complete (progLcdEntryMode params inc shift) s

/-- The program of LCD_DISPLAY_CTRL (R54). -/
def progLcdDisplayCtrl (P : Params) (disp cursor blink : Bool) : Program :=
  .ok (emits (sendCommand P (lcdDisplayCtrlByte disp cursor blink)))

/-- `LCD_DISPLAY_CTRL` (R54). -/
def execLcdDisplayCtrl (disp cursor blink : Bool) (s : State) : Host.Outcome State Fault Refusal :=
  complete (progLcdDisplayCtrl params disp cursor blink) s

/-- The program of LCD_SHIFT (R55). -/
def progLcdShift (P : Params) (move right : Bool) (x : BitVec 2) : Program :=
  .ok (emits (sendCommand P (lcdShiftByte move right x)))

/-- `LCD_SHIFT` (R55). -/
def execLcdShift (move right : Bool) (x : BitVec 2) (s : State) : Host.Outcome State Fault Refusal :=
  complete (progLcdShift params move right x) s

/-- The program of LCD_FUNCTION (R56). -/
def progLcdFunction (P : Params) (bus8 lines2 font10 : Bool) (x : BitVec 2) : Program :=
  .ok (emits (sendCommand P (lcdFunctionByte bus8 lines2 font10 x)))

/-- `LCD_FUNCTION` (R56). -/
def execLcdFunction (bus8 lines2 font10 : Bool) (x : BitVec 2) (s : State) : Host.Outcome State Fault Refusal :=
  complete (progLcdFunction params bus8 lines2 font10 x) s

/-- The program of LCD_SET_CGRAM (R57). -/
def progLcdSetCgram (P : Params) (a : BitVec 6) : Program := .ok (emits (sendCommand P (lcdSetCgramByte a)))

/-- `LCD_SET_CGRAM` (R57). -/
def execLcdSetCgram (a : BitVec 6) (s : State) : Host.Outcome State Fault Refusal :=
  complete (progLcdSetCgram params a) s

/-- The program of LCD_SET_DDRAM (R58). -/
def progLcdSetDdram (P : Params) (a : BitVec 7) : Program := .ok (emits (sendCommand P (lcdSetDdramByte a)))

/-- `LCD_SET_DDRAM` (R58). -/
def execLcdSetDdram (a : BitVec 7) (s : State) : Host.Outcome State Fault Refusal :=
  complete (progLcdSetDdram params a) s

end Sys2Proof.Machine
end

