-- ==== Sys2Proof/Machine/Text.lean ====
section
/-! DEFINITION. Custom glyph upload and text and number rendering (spec 43_glyph_and_text). -/

namespace Sys2Proof.Machine

/-- The program of CREATE_GLYPH (R140): one set-CGRAM-address command, then the 8 pattern bytes in order, unchanged. -/
def progCreateGlyph (P : Params) (slot : Byte) (p : Vector Byte Config.glyphRows) : Program :=
  .ok (emits (sendCommand P (setCgramCmd (glyphAddress slot)) ++ sendText P p.toList))

/-- `CREATE_GLYPH slot, p` (R140). -/
def execCreateGlyph (slot : Byte) (p : Vector Byte Config.glyphRows) (s : State) : Host.Outcome State Fault Refusal :=
  complete (progCreateGlyph params slot p) s

/-- The program of WRITE_STRING (R143): every byte as it is, in order; nothing for the empty string. -/
def progWriteString (P : Params) (p : List Byte) : Program := .ok (emits (sendText P p))

/-- `WRITE_STRING p` (R143). -/
def execWriteString (p : List Byte) (s : State) : Host.Outcome State Fault Refusal :=
  complete (progWriteString params p) s

/-- The program of WRITE_INT (R147): `WRITE_STRING(dec(v))`. -/
def progWriteInt (P : Params) (v : BitVec Config.intWidth) : Program := .ok (emits (sendText P (dec (signedValue v))))

/-- `WRITE_INT v` (R147). -/
def execWriteInt (v : BitVec Config.intWidth) (s : State) : Host.Outcome State Fault Refusal :=
  complete (progWriteInt params v) s

/-- The program of WRITE_FLOAT (R149): the text of the configuration field `fmtFloat`; no text, or a text that does not
fit the buffer with its terminating byte, is refused (R151). -/
def progWriteFloat (P : Params) (x : BitVec 64) : Program :=
  match P.fmtFloat x with
  | none => .error .floatTextUndefined
  | some t => if t.length > P.fmtBuf - 1 then .error .floatTextTooLong else .ok (emits (sendText P t))

/-- `WRITE_FLOAT x` (R149). -/
def execWriteFloat (x : BitVec 64) (s : State) : Host.Outcome State Fault Refusal :=
  complete (progWriteFloat params x) s

end Sys2Proof.Machine
end

