-- ==== Sys2Proof/Machine/Program.lean ====
section
/-! DEFINITION. `prog(request, s)` of R16: the item list of every instruction, a function of the parameters, the request
and the two masks at acceptance, and of nothing else. The meanings of Machine/Dispatch.lean run the same programs whole. -/

namespace Sys2Proof.Machine

/-- The item list of an instruction accepted with masks `dc` and `dm` (R16), or the refusal of R174. -/
def program (P : Params) (i : Instr) (dc dm : Byte) : Program :=
  match i with
  | .init => progInit P dc
  | .sendCmd v => progSendCmd P v
  | .sendData v => progSendData P v
  | .clear => progClear P
  | .home => progHome P
  | .setCursor col row => progSetCursor P col row
  | .displayOn => progDisplayOn P dc
  | .displayOff => progDisplayOff P dc
  | .cursorOn => progCursorOn P dc
  | .cursorOff => progCursorOff P dc
  | .blinkOn => progBlinkOn P dc
  | .blinkOff => progBlinkOff P dc
  | .leftToRight => progLeftToRight P dm
  | .rightToLeft => progRightToLeft P dm
  | .scrollLeft => progScrollLeft P
  | .scrollRight => progScrollRight P
  | .createGlyph slot p => progCreateGlyph P slot p
  | .writeString p => progWriteString P p
  | .writeInt v => progWriteInt P v
  | .writeFloat x => progWriteFloat P x
  | .lcdClear => progLcdClear P
  | .lcdHome x => progLcdHome P x
  | .lcdEntryMode inc shift => progLcdEntryMode P inc shift
  | .lcdDisplayCtrl disp cursor blink => progLcdDisplayCtrl P disp cursor blink
  | .lcdShift move right x => progLcdShift P move right x
  | .lcdFunction bus8 lines2 font10 x => progLcdFunction P bus8 lines2 font10 x
  | .lcdSetCgram a => progLcdSetCgram P a
  | .lcdSetDdram a => progLcdSetDdram P a

end Sys2Proof.Machine
end

