-- ==== Sys2Proof/Machine/Dispatch.lean ====
section
/-! DEFINITION. One arm for each constructor of `Instr`, each one direct call of its meaning: the whole request at once
(the big step of spec 10_state R16). -/

namespace Sys2Proof.Machine

def exec (i : Instr) (s : State) : Host.Outcome State Fault Refusal :=
  match i with
  | .init => Sys2Proof.Machine.execInit s
  | .sendCmd v => Sys2Proof.Machine.execSendCmd v s
  | .sendData v => Sys2Proof.Machine.execSendData v s
  | .clear => Sys2Proof.Machine.execClear s
  | .home => Sys2Proof.Machine.execHome s
  | .setCursor col row => Sys2Proof.Machine.execSetCursor col row s
  | .displayOn => Sys2Proof.Machine.execDisplayOn s
  | .displayOff => Sys2Proof.Machine.execDisplayOff s
  | .cursorOn => Sys2Proof.Machine.execCursorOn s
  | .cursorOff => Sys2Proof.Machine.execCursorOff s
  | .blinkOn => Sys2Proof.Machine.execBlinkOn s
  | .blinkOff => Sys2Proof.Machine.execBlinkOff s
  | .leftToRight => Sys2Proof.Machine.execLeftToRight s
  | .rightToLeft => Sys2Proof.Machine.execRightToLeft s
  | .scrollLeft => Sys2Proof.Machine.execScrollLeft s
  | .scrollRight => Sys2Proof.Machine.execScrollRight s
  | .createGlyph slot p => Sys2Proof.Machine.execCreateGlyph slot p s
  | .writeString p => Sys2Proof.Machine.execWriteString p s
  | .writeInt v => Sys2Proof.Machine.execWriteInt v s
  | .writeFloat x => Sys2Proof.Machine.execWriteFloat x s
  | .lcdClear => Sys2Proof.Machine.execLcdClear s
  | .lcdHome x => Sys2Proof.Machine.execLcdHome x s
  | .lcdEntryMode inc shift => Sys2Proof.Machine.execLcdEntryMode inc shift s
  | .lcdDisplayCtrl disp cursor blink => Sys2Proof.Machine.execLcdDisplayCtrl disp cursor blink s
  | .lcdShift move right x => Sys2Proof.Machine.execLcdShift move right x s
  | .lcdFunction bus8 lines2 font10 x => Sys2Proof.Machine.execLcdFunction bus8 lines2 font10 x s
  | .lcdSetCgram a => Sys2Proof.Machine.execLcdSetCgram a s
  | .lcdSetDdram a => Sys2Proof.Machine.execLcdSetDdram a s

end Sys2Proof.Machine
end

