-- ==== Sys2Proof/Machine/Sequencer.lean ====
section
/-! DEFINITION. The sequencer between acceptance and completion, item by item (spec 10_state R15, R16, R18), reset (R180,
R194), and the acceptance of an offer (R66, R190). What accepts is given the parameters `P` that item lists are built with
(R6) and the meanings `run` that the big step uses: Machine/Step.lean gives it the defaults and `exec`. -/

namespace Sys2Proof.Machine

/-- What an item loads into the delay counter: "a `W(t)` item loads `dly <- t`" (R18). -/
def Item.delay : Item → BitVec 16
  | .micro (.w t) => BitVec.ofNat 16 t
  | .micro (.d _) | .micro (.rs _) | .micro (.e _) | .setDC _ | .setDM _ | .setPhase _ => 0

/-- `busy` falls when the last item, with its wait, has completed (R15, R16); an idle block holds no item list and `upc`
is 0 (assumption 5). -/
def finish (s : State) : State :=
  if s.dly = 0 ∧ s.prog.length ≤ s.upc then { s with busy := false, upc := 0, prog := [] } else s

/-- Item `upc` is performed and `upc` goes up by one (R16). -/
def itemStep (s : State) : State :=
  match s.prog[s.upc]? with
  | some i => finish { i.apply s with upc := s.upc + 1, dly := i.delay }
  | none => finish s

/-- One step of a busy sequencer: it does not advance while `dly != 0`, which counts down once a microsecond (R18). -/
def seqStep (s : State) : State :=
  if s.dly = 0 then itemStep s else finish { s with dly := s.dly - 1 }

/-- Reset (R180, R194): all state of the block takes its reset value, at once, whatever was being executed. It emits no
micro-operation, so the trace stands; the host's own requests and the model's step size stand too. -/
def takeReset (s : State) : State :=
  { State.reset with trace := s.trace, port := s.port, grain := s.grain }

/-- The meanings of the instructions, as the big step takes them. -/
abbrev Meaning := Instr → State → Host.Outcome State Fault Refusal

/-- A decoded instruction is accepted by an idle block: run whole, or begun item by item (R16). -/
def accept (P : Params) (run : Meaning) (i : Instr) (s : State) : Host.Outcome State Fault Refusal :=
  match s.grain with
  | .request => run i s
  | .item => begin (program P i s.dc s.dm) s

/-- An offer is taken by an idle block; `s` is the state without it. An illegal request is accepted, its payload consumed,
and is a complete no-op (R66). -/
def serve (P : Params) (run : Meaning) (o : Offer) (s : State) : Host.Outcome State Fault Refusal :=
  match decodeOffer o with
  | .ok i => accept P run i s
  | .error .unassignedOp => .next s
  | .error .wrongCount => .next s
  | .error .malformed => .refused .malformedOffer

/-- The block left alone or working: a busy block goes on and accepts nothing (R190), an idle one takes the host's next
offer, and waits where there is none (R180 "after reset the block is idle"). -/
def advance (P : Params) (run : Meaning) (s : State) : Host.Outcome State Fault Refusal :=
  if s.busy then .next (seqStep s)
  else
    match s.port with
    | [] => .next s
    | o :: rest => serve P run o { s with port := rest }

/-- One step: a reset if the host asks for one, which wins over everything (R163), else one step of the sequencer, else the
next offer. -/
def stepWith (P : Params) (run : Meaning) (s : State) : Host.Outcome State Fault Refusal :=
  if s.resetLine then .next (takeReset s) else advance P run s

/-- The block idle and the offer of a table word first at its port, to be run whole. -/
def offerFirst (s : State) (o : Offer) : State :=
  { s with resetLine := false, busy := false, upc := 0, prog := [], dly := 0, grain := .request, port := o :: s.port }

end Sys2Proof.Machine
end

