-- ==== Sys2Proof/Machine/Step.lean ====
section
/-! DEFINITION. One step of the machine: that of Machine/Sequencer.lean with the default parameters (spec 00_scope R6) and
the meanings of Machine/Dispatch.lean. -/

namespace Sys2Proof.Machine

/-- One step: a reset if the host asks for one, else one step of the sequencer, else the next offer. -/
def step (s : State) : Host.Outcome State Fault Refusal := stepWith params exec s

/-- The state with the instruction of a table word offered to an idle block, so that the next step runs it. -/
def State.withFetchWord (s : State) (nbits w : Nat) : State := offerFirst s (offerOfWord nbits w)

end Sys2Proof.Machine
end

