-- ==== Sys2Proof/Machine/Adapter.lean ====
section
/-! DEFINITION. The line-driver adapter of spec 20_memory R30: what a micro-operation writes in the physical port
registers. Which port and which bits are open parameters (R6, D25), so the layout is an argument; no rule of the block and
no field of its state depends on it. -/

namespace Sys2Proof.Machine

/-- `DATA_SHIFT`, `E_BIT`, `RS_BIT` and the ports that hold the lines (R6): the data lines are one contiguous 4-bit field of
a single port, `E` and `RS` are one bit of some port each (R30). -/
structure PortLayout where
  dataPort : Nat
  dataShift : Nat
  ePort : Nat
  eBit : Nat
  rsPort : Nat
  rsBit : Nat
  deriving DecidableEq, Repr

/-- `PORT[shift+3 : shift] <- n`; every other bit is left as it is (R30). -/
def writeField {w : Nat} (port : BitVec w) (shift : Nat) (n : Nibble) : BitVec w :=
  (port &&& ~~~((0xF#w) <<< shift)) ||| (n.setWidth w <<< shift)

/-- One bit of a port is written; every other bit is left as it is (R30). -/
def writeBit {w : Nat} (port : BitVec w) (i : Nat) (b : Bool) : BitVec w :=
  (port &&& ~~~((1#w) <<< i)) ||| (((BitVec.ofBool b).setWidth w) <<< i)

/-- The port registers after a micro-operation; a wait writes none (R30). -/
def MicroOp.onPorts {w : Nat} (L : PortLayout) (m : MicroOp) (ports : List (BitVec w)) : List (BitVec w) :=
  match m with
  | .d n => ports.modify L.dataPort (fun p => writeField p L.dataShift n)
  | .rs b => ports.modify L.rsPort (fun p => writeBit p L.rsBit b)
  | .e b => ports.modify L.ePort (fun p => writeBit p L.eBit b)
  | .w _ => ports

end Sys2Proof.Machine
end

