-- ==== Sys2Proof/Machine/Parametric.lean ====
section
/-! DEFINITION. The machine at any value of the parameters a model takes (spec 00_scope R6). `exec` and `step` are this
machine at the defaults. -/

namespace Sys2Proof.Machine

/-- The meaning of an instruction with the parameters `P`: its item list run whole (R16). -/
def execAt (P : Params) (i : Instr) (s : State) : Host.Outcome State Fault Refusal :=
  complete (program P i s.dc s.dm) s

/-- One step with the parameters `P`. -/
def stepAt (P : Params) (s : State) : Host.Outcome State Fault Refusal := stepWith P (execAt P) s

end Sys2Proof.Machine
end

