-- ==== Sys2Proof/Machine/Observe.lean ====
section
/-! DEFINITION. What is seen of the block: the two test doubles of spec 60_exceptions R171, which are the `latched` and
`bytes` views of a trace (00_scope R8) and the requested waits (R193), and the register observation port (10_state R24). -/

namespace Sys2Proof.Machine

/-- A reading of the register observation port (R24). -/
structure Observation where
  dc : Byte
  dm : Byte
  phase : Phase
  busy : Bool
  deriving DecidableEq, Repr

/-- The observation port: readable at any time, without side effect (R24). -/
def State.observe (s : State) : Observation := { dc := s.dc, dm := s.dm, phase := s.phase, busy := s.busy }

/-- The pairs (RS, DATA) sampled at each `E(0)` that follows an `E(1)` with no other `E` write between (R8), for a trace
that starts with the lines at `d`, `r` and with `high` saying whether the last `E` write was `E(1)`. A reset in the middle
of a pulse lowers `E` without a micro-operation (R180), so the next `E(0)` of the trace is read as the pulse's end: the model's
choice (DESIGN CHOICE, assumption 16). -/
def latchedFrom (d : Nibble) (r high : Bool) : List MicroOp → List (Bool × Nibble)
  | [] => []
  | .d n :: t => latchedFrom n r high t
  | .rs b :: t => latchedFrom d b high t
  | .e true :: t => latchedFrom d r true t
  | .e false :: t => if high then (r, d) :: latchedFrom d r false t else latchedFrom d r false t
  | .w _ :: t => latchedFrom d r high t

/-- `latched(T)` (R8). -/
def latched (t : List MicroOp) : List (Bool × Nibble) := latchedFrom 0 false false t

/-- Consecutive pairs `(rs, hi)`, `(rs, lo)` joined to `(rs, hi*16 + lo)` (R8). An odd entry at the end is dropped, and
the pairs are counted from the start of the list: the model's choice for a trace that is not whole bytes, as one cut in the
middle of a byte by a reset (R194; DESIGN CHOICE, assumption 16). -/
def pairUp : List (Bool × Nibble) → List (Bool × Byte)
  | (r, hi) :: (_, lo) :: l => (r, hi ++ lo) :: pairUp l
  | [_] => []
  | [] => []

/-- `bytes(T)`, "defined for the traces of `SEND_CMD` and `SEND_DATA`" and what is put together from them (R8). R8 says
nothing of any other trace; what this view answers there, a trace cut by a reset (R194) among them, is the model's choice
(DESIGN CHOICE, assumption 16). -/
def bytes (t : List MicroOp) : List (Bool × Byte) := pairUp (latched t)

/-- What a receiver takes out of a trace: a byte of two nibble transfers, or a single-nibble transfer (R8, R60). -/
inductive Sent where
  | nibble (rs : Bool) (d : Nibble)
  | byte (rs : Bool) (v : Byte)
  deriving DecidableEq, Repr

/-- The half byte a receiver holds: none; one just latched; one whose settle wait is over; one that the next transfer's
data write has joined to the coming nibble. -/
inductive Half where
  | none
  | fresh (r : Bool) (hi : Nibble)
  | settled (r : Bool) (hi : Nibble)
  | joined (r : Bool) (hi : Nibble)
  deriving DecidableEq, Repr

/-- A nibble whose settle wait is followed by a second wait is a single-nibble transfer (only INIT has them, R102, R103);
a nibble whose settle wait is followed by the next data write is the first half of a byte (R82). Reading the waits so is
the model's choice (assumption 16). So is what becomes of half a byte in a trace that a reset cut in the middle of a byte
(R194), which R8 and R60 leave open: it is reported as a single nibble if the trace ends there or two waits follow it before
the next data write (its settle wait and the power-on wait of an INIT), and is joined to the next nibble otherwise (DESIGN
CHOICE, assumption 16). -/
def transfersFrom (d : Nibble) (r high : Bool) (half : Half) : List MicroOp → List Sent
  | [] =>
    match half with
    | .none => []
    | .fresh r' hi | .settled r' hi | .joined r' hi => [.nibble r' hi]
  | .d n :: t =>
    match half with
    | .settled r' hi => transfersFrom n r high (.joined r' hi) t
    | .none | .fresh _ _ | .joined _ _ => transfersFrom n r high half t
  | .rs b :: t => transfersFrom d b high half t
  | .e true :: t => transfersFrom d r true half t
  | .e false :: t =>
    if high then
      match half with
      | .none => transfersFrom d r false (.fresh r d) t
      | .fresh r' hi | .settled r' hi | .joined r' hi => .byte r' (hi ++ d) :: transfersFrom d r false .none t
    else transfersFrom d r false half t
  | .w _ :: t =>
    match half with
    | .fresh r' hi => transfersFrom d r high (.settled r' hi) t
    | .settled r' hi => .nibble r' hi :: transfersFrom d r high .none t
    | .none | .joined _ _ => transfersFrom d r high half t

/-- The transfers of a trace, bytes as bytes and the single nibbles of INIT as nibbles (R8, R60). For a trace cut in the
middle of a byte by a reset the answer is the model's choice (DESIGN CHOICE, assumption 16). -/
def transfers (t : List MicroOp) : List Sent := transfersFrom 0 false false .none t

/-- The requested time of a trace in µs: the sum of its `W` items (R193). -/
def requested : List MicroOp → Nat
  | [] => 0
  | .w t :: l => t + requested l
  | .d _ :: l | .rs _ :: l | .e _ :: l => requested l

end Sys2Proof.Machine
end

