-- ==== Sys2Proof/Safety.lean ====
section
/-! DEFINITION. What counts as a safe state and a safe trace, in the terms the statements use. -/

namespace Sys2Proof.Safety

open Sys2Proof.Machine

/-- The legal values of the masks: `DC` is 0x00 to 0x07 (R11), `DM` is 0x00 or 0x02 (R12). -/
abbrev LegalMasks (dc dm : Byte) : Prop := dc.toNat ≤ 7 ∧ (dm = 0x00 ∨ dm = 0x02)

/-- The item writes no illegal value into a mask. -/
abbrev Item.Legal (i : Item) : Prop :=
  match i with
  | .setDC v => v.toNat ≤ 7
  | .setDM v => v = 0x00 ∨ v = 0x02
  | .micro _ => True
  | .setPhase _ => True

/-- The data lines and the enable line rest at 0 (R17: "between requests `DATA = 0`, `E = 0`"). -/
abbrev Quiet (s : State) : Prop := s.data = 0 ∧ s.e = false

/-- The items still to be performed. -/
def remaining (s : State) : List Item := s.prog.drop s.upc

/-- The invariant of the machine: the masks are legal and stay so through what remains of the request; performing what
remains leaves the lines at rest; an idle block holds no item list, its `upc` and `dly` are 0 (so its lines ARE at rest);
a busy one has an item or a wait before it. -/
structure BlockInv (s : State) : Prop where
  masks : LegalMasks s.dc s.dm
  ahead : ∀ i ∈ remaining s, Item.Legal i
  rest : Quiet (runItems (remaining s) s)
  idle : s.busy = false → s.prog = [] ∧ s.upc = 0 ∧ s.dly = 0
  working : s.busy = true → s.upc < s.prog.length ∨ s.dly ≠ 0

/-- A trace that is nibble transfers and waits and nothing else, every transfer with one whole enable pulse: the lines are
written while `E` is low and hold still through the pulse, the pulse is at least `T_E_HIGH` long after a low phase of at
least `T_E_LOW`, the data lines are then cleared and at least `T_NIBBLE` waited (R80, R81, R184). -/
def wellTimed (P : Params) : List MicroOp → Bool
  | [] => true
  | .w _ :: t => wellTimed P t
  | .d _ :: .rs _ :: .e false :: .w a :: .e true :: .w b :: .e false :: .d z :: .w c :: t =>
    decide (P.tELow ≤ a) && decide (P.tEHigh ≤ b) && decide (P.tNibble ≤ c) && z == 0 && wellTimed P t
  | _ => false

/-- The requests to which the spec gives a behaviour (R174): all but X2, X4 and X5 of R161. -/
def defined (P : Params) (i : Instr) : Prop :=
  match i with
  | .setCursor col row => 16 ≤ col.toNat ∨ row = 0 ∨ row = 1
  | .writeFloat x => ∃ t, P.fmtFloat x = some t ∧ t.length ≤ P.fmtBuf - 1
  | .init | .sendCmd _ | .sendData _ | .clear | .home | .displayOn | .displayOff | .cursorOn
  | .cursorOff | .blinkOn | .blinkOff | .leftToRight | .rightToLeft | .scrollLeft | .scrollRight | .createGlyph _ _
  | .writeString _ | .writeInt _ | .lcdClear | .lcdHome _ | .lcdEntryMode _ _ | .lcdDisplayCtrl _ _ _
  | .lcdShift _ _ _ | .lcdFunction _ _ _ _ | .lcdSetCgram _ | .lcdSetDdram _ => True

end Sys2Proof.Safety
end

