-- ==== Sys2Proof/Certificates/Slice0/Obligations.lean ====
section
/-! DEFINITION. The statements about the model, from the numbered rules of the spec. The names under `Sys2Proof.Claims` are
the statements' own vocabulary: the notation of 95_test_vectors for transfers, and plain specifications that do not go
through the model's builders. -/

namespace Sys2Proof.Claims

open Sys2Proof Sys2Proof.Machine

/-- `N[d,f]` of 95_test_vectors: the nine micro-operations of a nibble transfer (R80, R81). -/
def N (P : Params) (d : Nibble) (f : Bool) : List MicroOp :=
  [.d d, .rs f, .e false, .w P.tELow, .e true, .w P.tEHigh, .e false, .d 0, .w P.tNibble]

/-- A byte on the wire: high nibble, then low nibble (R82). -/
def byteTrace (P : Params) (v : Byte) (f : Bool) : List MicroOp :=
  N P (v.extractLsb' 4 4) f ++ N P (v.extractLsb' 0 4) f

/-- A command on the wire: the byte with RS low, then the wait of its class (R83, R84). -/
def commandTrace (P : Params) (v : Byte) : List MicroOp :=
  byteTrace P v false ++ [.w (if v.toNat < P.longThreshold.toNat then P.tLong else P.tShort)]

/-- Data bytes on the wire, in order (R85, R143). -/
def textTrace (P : Params) (p : List Byte) : List MicroOp := p.flatMap (fun v => byteTrace P v true)

/-- The state after a command: the lines at rest, RS low, the trace longer by the command; nothing else (R83). -/
def afterCommand (s : State) (v : Byte) : State :=
  { s with data := 0, e := false, rs := false, trace := s.trace ++ commandTrace params v }

/-- The state after a text: for the empty text the state itself; else the lines at rest, RS high, the trace longer by the
data bytes; nothing else (R85, R143). -/
def afterText (s : State) (p : List Byte) : State :=
  if p = [] then s else { s with data := 0, e := false, rs := true, trace := s.trace ++ textTrace params p }

/-- INIT's trace from `DC = dc` (R100). -/
def initTrace (P : Params) (dc : Byte) : List MicroOp :=
  [.w P.tPwr] ++ N P 3 false ++ [.w P.tPrime0] ++ N P 3 false ++ [.w P.tPrime1] ++ N P 3 false ++ [.w P.tPrime2] ++
  N P 2 false ++ [.w P.tShort] ++ commandTrace P 0x28 ++ commandTrace P (0x08 ||| (dc ||| 0x04)) ++
  commandTrace P 0x02 ++ commandTrace P 0x01 ++ commandTrace P (0x08 ||| ((dc ||| 0x04) &&& 0xFD)) ++
  commandTrace P (0x08 ||| ((dc ||| 0x04) &&& 0xFC))

/-- The state after a request, and then after another. -/
def andThen (o : Host.Outcome State Fault Refusal) (f : State → Host.Outcome State Fault Refusal) :
    Host.Outcome State Fault Refusal :=
  match o with
  | .next t => f t
  | .fault r => .fault r
  | .refused r => .refused r

/-- An outcome with its next state changed. -/
def onNext (f : State → State) (o : Host.Outcome State Fault Refusal) : Host.Outcome State Fault Refusal :=
  andThen o (fun t => .next (f t))

/-- The block holds no request (R15, R16) and no reset is asked for. -/
def Idle (s : State) : Prop :=
  s.resetLine = false ∧ s.busy = false ∧ s.upc = 0 ∧ s.prog = [] ∧ s.dly = 0

/-- A step has ended the request: the block is idle (R15). -/
def Ended (t : State) : Prop := t.busy = false ∧ t.upc = 0 ∧ t.prog = []

/-- A step goes on with the request of `s`, whose next item is now item `n` (R16). -/
def GoesOn (s t : State) (n : Nat) : Prop := t.busy = true ∧ t.upc = n ∧ t.prog = s.prog

/-- What an item loads into `dly`: the time of a wait, in 16 bits, and 0 for an item that takes no time (R18). -/
def loadedWait : Item → BitVec 16
  | .micro (.w t) => BitVec.ofNat 16 t
  | _ => 0

/-- The steps an item list takes item by item: one for each item, and one for each microsecond of its waits. -/
def stepsOf : List Item → Nat
  | [] => 0
  | .micro (.w t) :: l => 1 + t % 65536 + stepsOf l
  | _ :: l => 1 + stepsOf l

/-- The number a digit string stands for. -/
def valueOf (p : List Byte) : Nat := p.foldl (fun a b => 10 * a + (b.toNat - 0x30)) 0

/-- An ASCII decimal digit. -/
def IsDigit (b : Byte) : Prop := 0x30 ≤ b.toNat ∧ b.toNat ≤ 0x39

/-- `|x| * 2^1075` of a finite binary64 value, from its exponent and fraction fields. -/
def scaledAbs (x : BitVec 64) : Nat :=
  if (x.extractLsb' 52 11).toNat = 0 then (x.extractLsb' 0 52).toNat * 2
  else ((x.extractLsb' 0 52).toNat + 2 ^ 52) * 2 ^ (x.extractLsb' 52 11).toNat

/-- The operations that write `DC` (R23). -/
def writesDC : Instr → Bool
  | .init | .displayOn | .displayOff | .cursorOn | .cursorOff | .blinkOn | .blinkOff => true
  | _ => false

/-- The operations that write `DM` (R23). -/
def writesDM : Instr → Bool
  | .leftToRight | .rightToLeft => true
  | _ => false

/-- SET_CURSOR with a column out of range, the one presentation operation that does nothing (R113). -/
def cursorNoOp : Instr → Bool
  | .setCursor col _ => decide (16 ≤ col.toNat)
  | _ => false

/-- The operations that send a command byte of the host's choice (R61, R67). -/
def sendsRaw : Instr → Bool
  | .sendCmd _ | .lcdClear | .lcdHome _ | .lcdEntryMode _ _ | .lcdDisplayCtrl _ _ _ | .lcdShift _ _ _
  | .lcdFunction _ _ _ _ | .lcdSetCgram _ | .lcdSetDdram _ => true
  | _ => false

/-- The operations that send data bytes (R31, R36). -/
def sendsData : Instr → Bool
  | .sendData _ | .createGlyph _ _ | .writeString _ | .writeInt _ | .writeFloat _ => true
  | _ => false

/-- The display-control commands, 0x08 to 0x0F (R54). -/
def displayControls : List Byte := [0x08, 0x09, 0x0A, 0x0B, 0x0C, 0x0D, 0x0E, 0x0F]

/-- The command bytes each operation can emit by itself: the table of R61. -/
def ownCommands : Instr → List Byte
  | .init => [0x28, 0x02, 0x01] ++ displayControls
  | .clear => [0x01]
  | .home => [0x02]
  | .setCursor _ _ => [0x80, 0x81, 0x82, 0x83, 0x84, 0x85, 0x86, 0x87, 0x88, 0x89, 0x8A, 0x8B, 0x8C, 0x8D, 0x8E, 0x8F,
      0xC0, 0xC1, 0xC2, 0xC3, 0xC4, 0xC5, 0xC6, 0xC7, 0xC8, 0xC9, 0xCA, 0xCB, 0xCC, 0xCD, 0xCE, 0xCF]
  | .displayOn | .displayOff | .cursorOn | .cursorOff | .blinkOn | .blinkOff => displayControls
  | .leftToRight => [0x06]
  | .rightToLeft => [0x04]
  | .scrollLeft => [0x18]
  | .scrollRight => [0x1C]
  | .createGlyph _ _ => [0x40, 0x48, 0x50, 0x58, 0x60, 0x68, 0x70, 0x78]
  | _ => []

/-- The phases a list writes, in order. -/
def phasesOf : List Item → List Phase
  | [] => []
  | .setPhase p :: l => p :: phasesOf l
  | _ :: l => phasesOf l

/-- Every write of `phase` but the first item of the list comes right after a wait. -/
def phaseAfterWait : List Item → Prop
  | [] => True
  | [_] => True
  | a :: b :: l => ((∃ p, b = .setPhase p) → ∃ t, a = .micro (.w t)) ∧ phaseAfterWait (b :: l)

end Sys2Proof.Claims

open Sys2Proof Sys2Proof.Machine Sys2Proof.Safety Sys2Proof.Claims

/-! ### Reset and the machine's invariant -/

/-- R21, R180: the state after reset. The zeros of all but the masks and `phase` are the spec's own decision D11. The
empty trace is the model's choice (assumption 1). -/
def Obligations.ResetLeavesBlockIdleAndZero : Prop :=
  State.reset.dc = 0x00 ∧ State.reset.dm = 0x00 ∧ State.reset.phase = .unpowered ∧ State.reset.busy = false ∧
  State.reset.upc = 0 ∧ State.reset.data = 0 ∧ State.reset.e = false ∧ State.reset.rs = false ∧
  State.reset.dly = 0 ∧ State.reset.trace = []

/-- The invariant holds right after reset. The model's own fields are those of assumption 1. -/
def Obligations.ResetStateMeetsInvariant : Prop := BlockInv State.reset

/-- R11, R12, R15, R16, R17: every step keeps the invariant: the masks stay legal (`DC` at most 7, `DM` 0 or 2), what
remains of a request leaves the lines at rest, an idle block has its lines at rest and no request. That an idle block holds
no item list and that its `upc` and `dly` are 0 is the model's assumption 5. -/
def Obligations.EveryStepKeepsInvariant : Prop :=
  ∀ s t : State, BlockInv s → step s = .next t → BlockInv t

/-- R17: between requests the data lines and the enable line are 0. -/
def Obligations.IdleBlockHasQuietLines : Prop :=
  ∀ s t : State, BlockInv s → step s = .next t → t.busy = false → t.data = 0 ∧ t.e = false

/-- R180, R194, R163: reset wins over everything, abandons a request at once, emits nothing. Reset is the spec's decision
D11; that the trace, the host's offers and the step size stand is the model's choice (assumption 12). -/
def Obligations.ResetWinsAndEmitsNothing : Prop :=
  ∀ s : State, s.resetLine = true →
    ∃ t, step s = .next t ∧ t.dc = 0x00 ∧ t.dm = 0x00 ∧ t.phase = .unpowered ∧ t.busy = false ∧ t.upc = 0 ∧
      t.prog = [] ∧ t.data = 0 ∧ t.e = false ∧ t.rs = false ∧ t.dly = 0 ∧ t.trace = s.trace ∧ t.port = s.port ∧
      t.grain = s.grain ∧ t.resetLine = false

/-! ### Encoding -/

/-- R62 to R65, R52: decoding the encoding of any well-formed instruction gives it back. The request word is the spec's
decision D2; zeros in unused fields are the model's choice (assumption 15). -/
def Obligations.DecodeOfEncodeIsIdentity : Prop :=
  ∀ i : Instr, WellFormed i → decodeOffer (encode i) = .ok i

/-- R64, R66: a request carrying the payload its header counts is legal exactly when some row of the table has `header &
mask = match`, and it then decodes to the operation of that row. The request word is the spec's decision D2, and what is
illegal its decision D3. -/
def Obligations.RequestIsOperationOfMatchingRow : Prop :=
  ∀ (h : Word) (p : List Byte), p.length = (h.extractLsb' 0 8).toNat →
    (∀ i, decodeRequest h p = .ok i → ∃ m k, requestRow i = some (m, k) ∧ h &&& k = m) ∧
    (∀ j m k, requestRow j = some (m, k) → h &&& k = m → ∃ i, decodeRequest h p = .ok i ∧ requestRow i = some (m, k))

/-- R65: the header fields an operation does not use are ignored, whatever they hold: `b` by all operations but
SET_CURSOR, `a` by all but SEND_CMD, SEND_DATA, SET_CURSOR and CREATE_GLYPH. This is the spec's decision D4. -/
def Obligations.UnusedHeaderFieldsAreIgnored : Prop :=
  ∀ (op a b a' b' n : Byte) (p : List Byte),
    (op ≠ 0x06 → decodeRequest (header op a b n) p = decodeRequest (header op a b' n) p) ∧
    (op ≠ 0x02 → op ≠ 0x03 → op ≠ 0x06 → op ≠ 0x11 →
      decodeRequest (header op a b n) p = decodeRequest (header op a' b' n) p)

/-- R52: a command byte with a class is read by its most significant set bit, with the bits below it as fields, and is
encoded back to the same byte; 0x00 has no class and is taken as SEND_CMD 0x00 (the model's choice, assumption 3). The
decode rule is general knowledge by the spec's mark (G5). -/
def Obligations.LcdClassIsTopSetBit : Prop :=
  (∀ c : Byte, c ≠ 0 → ∃ i m k, decodeOffer (.command c) = .ok i ∧ lcdRow i = some (m, k) ∧ c &&& k = m ∧
    m.toNat = 2 ^ c.toNat.log2 ∧ encode i = .command c) ∧
  decodeOffer (.command 0x00) = .ok (.sendCmd 0x00)

/-- R63: the payload operands are little-endian: byte `k` is bits `8k+7 : 8k` of the operand. The payload's form is the
spec's decision (D2, D18, D19). -/
def Obligations.PayloadOperandsAreLittleEndian : Prop :=
  (∀ p0 p1 p2 p3 : Byte, ∃ v : BitVec 32, decodeOp 0x13 0 0 [p0, p1, p2, p3] = .ok (.writeInt v) ∧
    v.toNat = p0.toNat + p1.toNat * 2 ^ 8 + p2.toNat * 2 ^ 16 + p3.toNat * 2 ^ 24) ∧
  (∀ p0 p1 p2 p3 p4 p5 p6 p7 : Byte, ∃ x : BitVec 64,
    decodeOp 0x14 0 0 [p0, p1, p2, p3, p4, p5, p6, p7] = .ok (.writeFloat x) ∧
    x.toNat = p0.toNat + p1.toNat * 2 ^ 8 + p2.toNat * 2 ^ 16 + p3.toNat * 2 ^ 24 + p4.toNat * 2 ^ 32 +
      p5.toNat * 2 ^ 40 + p6.toNat * 2 ^ 48 + p7.toNat * 2 ^ 56)

/-- A few request words and command bytes of 95_test_vectors and 30_encoding, read by the decoder. The request word is the
spec's decision D2. -/
def Obligations.SpecWordsDecodeAsWritten : Prop :=
  decodeTableWord 32 0x01000000 = some .init ∧ decodeTableWord 32 0x02280000 = some (.sendCmd 0x28) ∧
  decodeTableWord 32 0x06030100 = some (.setCursor 3 1) ∧ decodeTableWord 32 0x09AA5500 = some .cursorOn ∧
  decodeRequest 0x12000002 [0x48, 0x69] = .ok (.writeString [0x48, 0x69]) ∧
  decodeRequest 0x15000000 [] = .error .unassignedOp ∧ decodeRequest 0x01000001 [0] = .error .wrongCount ∧
  decodeTableWord 8 0x0D = some (.lcdDisplayCtrl true false true) ∧ decodeTableWord 8 0xC3 = some (.lcdSetDdram 0x43)

/-! ### Steps -/

/-- R16, R190: an idle block that is offered a legal request runs exactly the decoded instruction: whole, or, at the item
grain, by starting its item list; the offer is taken from the port. The word the host places runs as the next step. The
two sizes of step are R16's (assumption 2); where the word is placed is the model's choice (assumption 11). -/
def Obligations.StepRunsDecodedInstruction : Prop :=
  (∀ (s : State) (o : Offer) (rest : List Offer) (i : Instr), s.resetLine = false → s.busy = false →
    s.port = o :: rest → decodeOffer o = .ok i →
    (s.grain = .request → step s = exec i { s with port := rest }) ∧
    (s.grain = .item → step s = begin (program params i s.dc s.dm) { s with port := rest })) ∧
  (∀ (s : State) (nbits w : Nat) (i : Instr), decodeTableWord nbits w = some i →
    step (s.withFetchWord nbits w) =
      exec i { s with resetLine := false, busy := false, upc := 0, prog := [], dly := 0, grain := .request })

/-- R66: an illegal request (unassigned `op`, or an `n` the operation does not have) is accepted, its payload is consumed
and nothing else happens. This is the spec's decision D3. -/
def Obligations.IllegalRequestIsCompleteNoOp : Prop :=
  ∀ (s : State) (h : Word) (p : List Byte) (rest : List Offer), s.resetLine = false → s.busy = false →
    s.port = .request h p :: rest → p.length = (h.extractLsb' 0 8).toNat →
    (∀ j m k, requestRow j = some (m, k) → h &&& k ≠ m) →
    step s = .next { s with port := rest }

/-- R190: a request offered while the block is busy is neither accepted nor changed nor lost. This is the spec's decision
D1; the list of offers is the model's (assumption 17). -/
def Obligations.BusyBlockHoldsOffersOff : Prop :=
  ∀ s : State, s.resetLine = false → s.busy = true → ∃ t, step s = .next t ∧ t.port = s.port

/-- R162, R180: an idle block that is offered nothing stays as it is. That such a step is taken at all is the model's
choice (assumption 20). -/
def Obligations.IdleBlockWaitsForRequest : Prop :=
  ∀ s : State, s.resetLine = false → s.busy = false → s.port = [] → step s = .next s

/-- R16: `upc` never skips and never moves back. While a wait runs, a step performs nothing, takes 1 from `dly` and leaves
`upc`; with no wait running, a step performs exactly the item `upc` stands at, adds 1 to `upc` and loads `dly` with the
item's wait (0 if it has none). The request ends with the last microsecond of the last item's wait, or with a last item that
has none, and with no other step. The list and `upc` are the spec's decision D24, `dly` its sketch D20; `upc` 0 and an empty
list at the end, a step for each microsecond, and the cut of a wait to 16 bits are the model's (assumptions 5, 10, 21). -/
def Obligations.SequencerPositionNeverSkips : Prop :=
  ∀ s : State, s.resetLine = false → s.busy = true → (s.upc < s.prog.length ∨ s.dly ≠ 0) →
    ∃ t, step s = .next t ∧ t.port = s.port ∧
      (s.dly ≠ 0 → t.dly = s.dly - 1 ∧ t.trace = s.trace ∧ t.dc = s.dc ∧ t.dm = s.dm ∧ t.phase = s.phase ∧
        t.data = s.data ∧ t.e = s.e ∧ t.rs = s.rs ∧
        if s.dly = 1 ∧ s.prog.length ≤ s.upc then Ended t else GoesOn s t s.upc) ∧
      (s.dly = 0 → ∃ i, s.prog[s.upc]? = some i ∧ t.dly = loadedWait i ∧ t.trace = s.trace ++ emitted [i] ∧
        t.dc = (i.apply s).dc ∧ t.dm = (i.apply s).dm ∧ t.phase = (i.apply s).phase ∧ t.data = (i.apply s).data ∧
        t.e = (i.apply s).e ∧ t.rs = (i.apply s).rs ∧
        if loadedWait i = 0 ∧ s.prog.length ≤ s.upc + 1 then Ended t else GoesOn s t (s.upc + 1))

/-- R42: nothing emitted is ever taken back or reordered: every step's trace begins with the trace before it. The trace is
a field of the model's state (assumption 10). -/
def Obligations.TraceOnlyGrows : Prop :=
  ∀ s t : State, step s = .next t → s.trace <+: t.trace

/-- R15, R16, R88: a busy block, left alone, performs what remains of its request, every item of it in order and every
wait as `dly` holds it, and is then idle; the number of steps is the running wait, one for each item, one for each
microsecond of its waits. A wait of 65536 µs or more in the list would be cut to 16 bits (assumption 21; the defaults have
none). That a wait ends is the model's assumption 9, that `upc` is 0 and the list empty at the end its assumption 5. -/
def Obligations.BusyBlockRunsToCompletion : Prop :=
  ∀ s : State, s.resetLine = false → s.busy = true → (s.upc < s.prog.length ∨ s.dly ≠ 0) →
    core.run (s.dly.toNat + stepsOf (remaining s)) s =
      .next { runItems (remaining s) s with busy := false, upc := 0, prog := [], dly := 0 }

/-- R16, R42, R68: the two sizes of step agree. For every request the spec gives a behaviour, an idle block at the item
grain comes, after one step for acceptance and the steps of the item list, to the very state the meaning gives; and at
every step on the way its trace is an initial part of the request's whole trace. It rests on the model's assumptions 2, 5
(what `upc` and the list hold at the end), 9 and 21. -/
def Obligations.ItemByItemEqualsWholeRequest : Prop :=
  ∀ (s t : State) (o : Offer) (rest : List Offer) (i : Instr) (l : List Item), Idle s → s.grain = .item →
    s.port = o :: rest → decodeOffer o = .ok i → program params i s.dc s.dm = .ok l →
    exec i { s with port := rest } = .next t →
    core.run (1 + stepsOf l) s = .next t ∧
    ∀ k ≤ 1 + stepsOf l, ∃ u, core.run k s = .next u ∧ s.trace <+: u.trace ∧ u.trace <+: t.trace

/-! ### Transfers -/

/-- R80, R81: NIBBLE drives the upper nibble, sets RS, pulses E once, clears the data lines and waits; the low four bits
of its argument are ignored; it ends with `DATA = 0`, `E = 0`, `RS = f` and writes nothing else. The low wait of the pulse
and the single write of the lines are the spec's decisions D6 and D16. -/
def Obligations.NibbleTransferIsOnePulse : Prop :=
  ∀ (P : Params) (v : Byte) (f : Bool) (s : State),
    nibble P v f = N P (v.extractLsb' 4 4) f ∧ nibble P (v &&& 0xF0) f = nibble P v f ∧
    pulse P = [.e false, .w P.tELow, .e true, .w P.tEHigh, .e false] ∧
    latched (nibble P v f) = [(f, v.extractLsb' 4 4)] ∧
    requested (nibble P v f) = P.tELow + P.tEHigh + P.tNibble ∧
    runItems (emits (nibble P v f)) s =
      { s with data := 0, e := false, rs := f, trace := s.trace ++ N P (v.extractLsb' 4 4) f }

/-- R82: a byte is exactly two nibble transfers, the first carrying `v & 0xF0`, the second `(v << 4) & 0xF0`, both with the
same flag; 18 micro-operations, 2004 µs at the default parameters; `latched` gains `(f, v[7:4])` and `(f, v[3:0])`, which
`bytes` joins to `(f, v)`. -/
def Obligations.ByteIsTwoNibblesHighFirst : Prop :=
  ∀ (P : Params) (v : Byte) (f : Bool),
    sendByte P v f = nibble P (v &&& 0xF0) f ++ nibble P ((v <<< 4) &&& 0xF0) f ∧
    sendByte P v f = N P (v.extractLsb' 4 4) f ++ N P (v.extractLsb' 0 4) f ∧
    (sendByte P v f).length = 18 ∧ requested (sendByte params v f) = 2004 ∧
    latched (sendByte P v f) = [(f, v.extractLsb' 4 4), (f, v.extractLsb' 0 4)] ∧
    bytes (sendByte P v f) = [(f, v)]

/-- R83, R84: SEND_CMD, for every value and in every state: the byte with RS low and the wait of its class; no register of
the register file is written, even by a display-control or entry-mode command. -/
def Obligations.SendCommandTransmitsByteAndWaits : Prop :=
  ∀ (v b : Byte) (s : State),
    decodeRequest (header 0x02 v b 0) [] = .ok (.sendCmd v) ∧
    exec (.sendCmd v) s = .next (afterCommand s v) ∧
    (commandTrace params v).length = 19 ∧ bytes (commandTrace params v) = [(false, v)] ∧
    requested (commandTrace params v) = if v.toNat < params.longThreshold.toNat then 3524 else 2041

/-- R84, D7: with the default threshold the values 0x00 to 0x03 are long and 0x04 to 0xFF are short; in general the class is
the unsigned comparison with the threshold. -/
def Obligations.LatencyClassIsNumericComparison : Prop :=
  (∀ v : Byte, classWait params v = if v.toNat ≤ 3 then 1520 else 37) ∧
  (∀ (P : Params) (v : Byte), (latency P v = .long ↔ v.toNat < P.longThreshold.toNat) ∧
    (latency P v = .long → classWait P v = P.tLong) ∧ (latency P v = .short → classWait P v = P.tShort))

/-- R85: SEND_DATA, for every value and in every state: the byte with RS high, no wait after it, no register written. That
no wait follows is the spec's decision D23. -/
def Obligations.SendDataTransmitsByte : Prop :=
  ∀ (v b : Byte) (s : State),
    decodeRequest (header 0x03 v b 0) [] = .ok (.sendData v) ∧
    exec (.sendData v) s =
      .next { s with data := 0, e := false, rs := true, trace := s.trace ++ byteTrace params v true } ∧
    (byteTrace params v true).length = 18 ∧ bytes (byteTrace params v true) = [(true, v)] ∧
    requested (byteTrace params v true) = 2004

/-- R50 to R58: each LCD command class, executed by the block, is its byte sent as SEND_CMD sends it: the class constant
OR-ed with the field bits at the places the patterns of R52 give. That such a byte can be offered is the model's choice
(assumption 3); the bit places are general knowledge by the spec's mark (G1 to G4). -/
def Obligations.LcdCommandsAreSentAsBytes : Prop :=
  ∀ (s : State) (x y z : Bool) (q : BitVec 2) (a6 : BitVec 6) (a7 : BitVec 7),
    exec .lcdClear s = .next (afterCommand s 0x01) ∧
    exec (.lcdHome x) s = .next (afterCommand s (0x02 ||| bif x then 0x01 else 0x00)) ∧
    exec (.lcdEntryMode x y) s =
      .next (afterCommand s (0x04 ||| (bif x then 0x02 else 0x00) ||| bif y then 0x01 else 0x00)) ∧
    exec (.lcdDisplayCtrl x y z) s =
      .next (afterCommand s (0x08 ||| (bif x then 0x04 else 0x00) ||| (bif y then 0x02 else 0x00) |||
        bif z then 0x01 else 0x00)) ∧
    exec (.lcdShift x y q) s =
      .next (afterCommand s (0x10 ||| (bif x then 0x08 else 0x00) ||| (bif y then 0x04 else 0x00) |||
        q.setWidth 8)) ∧
    exec (.lcdFunction x y z q) s =
      .next (afterCommand s (0x20 ||| (bif x then 0x10 else 0x00) ||| (bif y then 0x08 else 0x00) |||
        (bif z then 0x04 else 0x00) ||| q.setWidth 8)) ∧
    exec (.lcdSetCgram a6) s = .next (afterCommand s (0x40 ||| a6.setWidth 8)) ∧
    exec (.lcdSetDdram a7) s = .next (afterCommand s (0x80 ||| a7.setWidth 8))

/-! ### Presentation -/

/-- R111, R112: CLEAR is SEND_CMD 0x01 and HOME is SEND_CMD 0x02, for every header with their `op` and `n = 0`: pins only,
the masks unchanged, the wait long (3524 µs in all at the defaults), and done twice they make two identical transmissions. -/
def Obligations.ClearAndHomeSendFixedCommands : Prop :=
  ∀ (a b : Byte) (s : State),
    decodeRequest (header 0x04 a b 0) [] = .ok .clear ∧ decodeRequest (header 0x05 a b 0) [] = .ok .home ∧
    exec .clear s = .next (afterCommand s 0x01) ∧ exec .home s = .next (afterCommand s 0x02) ∧
    bytes (commandTrace params 0x01) = [(false, 0x01)] ∧ bytes (commandTrace params 0x02) = [(false, 0x02)] ∧
    (commandTrace params 0x01).getLast? = some (.w 1520) ∧ (commandTrace params 0x02).getLast? = some (.w 1520) ∧
    requested (commandTrace params 0x01) = 3524 ∧ requested (commandTrace params 0x02) = 3524 ∧
    ∃ t, andThen (exec .clear s) (exec .clear) = .next t ∧ t.dc = s.dc ∧ t.dm = s.dm ∧
      t.trace = s.trace ++ commandTrace params 0x01 ++ commandTrace params 0x01

/-- R122, R123 (with D14 and the bit positions of R55): the scrolls send the fixed commands 0x18 and 0x1C; no register
changes. -/
def Obligations.ScrollsSendFixedCommands : Prop :=
  ∀ s : State, exec .scrollLeft s = .next (afterCommand s 0x18) ∧ exec .scrollRight s = .next (afterCommand s 0x1C)

/-- R32: the position map: column `c` of row 0 is address `c`, of row 1 `c + 0x40`, for the 16 columns, without a carry out
of 7 bits; for a row outside {0, 1} there is no address; for a column outside the 16 SET_CURSOR does nothing. A raw SEND_CMD
of 0x80 to 0xFF is not checked. -/
def Obligations.CursorAddressIsPositionMap : Prop :=
  (∀ col : Byte, col.toNat < 16 → ∃ a0 a1, cursorAddress col 0 = some a0 ∧ a0.toNat = col.toNat ∧
    cursorAddress col 1 = some a1 ∧ a1.toNat = col.toNat + 0x40 ∧ a1.toNat ≤ 0x4F) ∧
  (∀ col row : Byte, row ≠ 0 → row ≠ 1 → cursorAddress col row = none) ∧
  (∀ (col row : Byte) (s : State), 16 ≤ col.toNat → exec (.setCursor col row) s = .next s) ∧
  (∀ (v : Byte) (s : State), 0x80 ≤ v.toNat → exec (.sendCmd v) s = .next (afterCommand s v))

/-- R113: SET_CURSOR: a column of 16 or more changes nothing, whatever the row is; in range, row 0 sends `0x80 | col`, row
1 sends `0xC0 + col`; a column in range with another row is refused. The operands' type and the refusal are the spec's
decision D15. -/
def Obligations.SetCursorTestsColumnThenRow : Prop :=
  ∀ (col row : Byte) (s : State),
    (16 ≤ col.toNat → exec (.setCursor col row) s = .next s) ∧
    (col.toNat < 16 → row = 0 → exec (.setCursor col row) s = .next (afterCommand s (0x80 ||| col))) ∧
    (col.toNat < 16 → row = 1 → exec (.setCursor col row) s = .next (afterCommand s (0xC0 + col))) ∧
    (col.toNat < 16 → row ≠ 0 → row ≠ 1 → exec (.setCursor col row) s = .refused .rowOutOfRange)

/-- R110, with the bits of R114 to R121: a toggle's item list is the write of the new mask and then the 19 items of a
command that carries the entire new mask, whether or not the bit already had the value asked for. The places of the bits of
`DC` and `DM` are general knowledge by the spec's marks (G1, G2; assumption 8). -/
def Obligations.ToggleComposesMaskThenSends : Prop :=
  ∀ (P : Params) (dc dm : Byte),
    program P .displayOn dc dm = .ok (.setDC (dc ||| 0x04) :: emits (commandTrace P (0x08 ||| (dc ||| 0x04)))) ∧
    program P .displayOff dc dm = .ok (.setDC (dc &&& 0xFB) :: emits (commandTrace P (0x08 ||| (dc &&& 0xFB)))) ∧
    program P .cursorOn dc dm = .ok (.setDC (dc ||| 0x02) :: emits (commandTrace P (0x08 ||| (dc ||| 0x02)))) ∧
    program P .cursorOff dc dm = .ok (.setDC (dc &&& 0xFD) :: emits (commandTrace P (0x08 ||| (dc &&& 0xFD)))) ∧
    program P .blinkOn dc dm = .ok (.setDC (dc ||| 0x01) :: emits (commandTrace P (0x08 ||| (dc ||| 0x01)))) ∧
    program P .blinkOff dc dm = .ok (.setDC (dc &&& 0xFE) :: emits (commandTrace P (0x08 ||| (dc &&& 0xFE)))) ∧
    program P .leftToRight dc dm = .ok (.setDM (dm ||| 0x02) :: emits (commandTrace P (0x04 ||| (dm ||| 0x02)))) ∧
    program P .rightToLeft dc dm = .ok (.setDM (dm &&& 0xFD) :: emits (commandTrace P (0x04 ||| (dm &&& 0xFD)))) ∧
    ∀ v : Byte, (commandTrace P v).length = 19

/-- R114 to R119: the six display-control toggles, by their `op` with `n = 0`, set or clear their one bit of `DC`, keep the
others, and send `0x08 | DC`, a command of the short class; nothing else changes. -/
def Obligations.DisplayControlTogglesWriteOneBit : Prop :=
  (∀ s : State,
    exec .displayOn s = .next (afterCommand { s with dc := s.dc ||| 0x04 } (0x08 ||| (s.dc ||| 0x04))) ∧
    exec .displayOff s = .next (afterCommand { s with dc := s.dc &&& 0xFB } (0x08 ||| (s.dc &&& 0xFB))) ∧
    exec .cursorOn s = .next (afterCommand { s with dc := s.dc ||| 0x02 } (0x08 ||| (s.dc ||| 0x02))) ∧
    exec .cursorOff s = .next (afterCommand { s with dc := s.dc &&& 0xFD } (0x08 ||| (s.dc &&& 0xFD))) ∧
    exec .blinkOn s = .next (afterCommand { s with dc := s.dc ||| 0x01 } (0x08 ||| (s.dc ||| 0x01))) ∧
    exec .blinkOff s = .next (afterCommand { s with dc := s.dc &&& 0xFE } (0x08 ||| (s.dc &&& 0xFE)))) ∧
  (∀ a b : Byte,
    decodeRequest (header 0x07 a b 0) [] = .ok .displayOn ∧ decodeRequest (header 0x08 a b 0) [] = .ok .displayOff ∧
    decodeRequest (header 0x09 a b 0) [] = .ok .cursorOn ∧ decodeRequest (header 0x0A a b 0) [] = .ok .cursorOff ∧
    decodeRequest (header 0x0B a b 0) [] = .ok .blinkOn ∧ decodeRequest (header 0x0C a b 0) [] = .ok .blinkOff) ∧
  (∀ dc : Byte, (commandTrace params (0x08 ||| dc)).getLast? = some (.w params.tShort))

/-- R120, R121 (with the bit position of R12): LEFT_TO_RIGHT sets and RIGHT_TO_LEFT clears bit 1 of `DM`, and they send
`0x04 | DM`; nothing else changes. -/
def Obligations.EntryModeTogglesWriteOneBit : Prop :=
  ∀ s : State,
    exec .leftToRight s = .next (afterCommand { s with dm := s.dm ||| 0x02 } (0x04 ||| (s.dm ||| 0x02))) ∧
    exec .rightToLeft s = .next (afterCommand { s with dm := s.dm &&& 0xFD } (0x04 ||| (s.dm &&& 0xFD)))

/-- R124, R13, of the thirteen presentation operations. (a) SET_CURSOR with a column out of range emits nothing; every other
one that has a behaviour emits exactly one command and nothing else. (b) After a toggle the command just sent carries the
mask as it now stands. (c) ON and then the matching OFF leaves the other bits of the mask as they were and the toggled one 0;
two equal toggles in a row emit two equal commands. (d) CLEAR, HOME, SET_CURSOR and the scrolls leave both masks. (e) The
toggles on `DC` leave `DM`, those on `DM` leave `DC`. R124 is the spec's own derivation, and the places of the bits are
general knowledge (G1, G2; assumption 8). -/
def Obligations.PresentationLawsHold : Prop :=
  (∀ (P : Params) (i : Instr) (dc dm : Byte) (l : List Item), sendsRaw i = false → sendsData i = false → i ≠ .init →
    program P i dc dm = .ok l → if cursorNoOp i then l = [] else ∃ v, emitted l = commandTrace P v) ∧
  (∀ (i : Instr) (s t : State), i ≠ .init → writesDC i = true → exec i s = .next t →
    t.trace = s.trace ++ commandTrace params (0x08 ||| t.dc)) ∧
  (∀ (i : Instr) (s t : State), writesDM i = true → exec i s = .next t →
    t.trace = s.trace ++ commandTrace params (0x04 ||| t.dm)) ∧
  (∀ s : State,
    (∃ t, andThen (exec .displayOn s) (exec .displayOff) = .next t ∧ t.dc = s.dc &&& 0xFB) ∧
    (∃ t, andThen (exec .cursorOn s) (exec .cursorOff) = .next t ∧ t.dc = s.dc &&& 0xFD) ∧
    (∃ t, andThen (exec .blinkOn s) (exec .blinkOff) = .next t ∧ t.dc = s.dc &&& 0xFE) ∧
    (∃ t, andThen (exec .leftToRight s) (exec .rightToLeft) = .next t ∧ t.dm = s.dm &&& 0xFD)) ∧
  (∀ (i : Instr) (s : State), i ≠ .init → (writesDC i = true ∨ writesDM i = true) →
    ∃ t v, andThen (exec i s) (exec i) = .next t ∧
      t.trace = s.trace ++ commandTrace params v ++ commandTrace params v) ∧
  (∀ (i : Instr) (s t : State), sendsRaw i = false → sendsData i = false → i ≠ .init → exec i s = .next t →
    (writesDC i = false → t.dc = s.dc) ∧ (writesDM i = false → t.dm = s.dm))

/-! ### INIT -/

/-- R100, R107: INIT, in every state and phase: its whole trace, `phase = READY`, `DC` with display on and cursor and
blink off, `DM` kept, RS low; 155 micro-operations and 165 items, 73494 µs at the defaults. The form of the primes, their
waits, the power-on wait and the masks kept are the spec's decisions D8, D9, D10, D22. -/
def Obligations.InitRunsWholeSequence : Prop :=
  ∀ s : State,
    exec .init s = .next { s with phase := .ready, dc := (s.dc ||| 0x04) &&& 0xFC, data := 0, e := false, rs := false,
                                  trace := s.trace ++ initTrace params s.dc } ∧
    (∃ l, program params .init s.dc s.dm = .ok l ∧ l.length = 165 ∧ emitted l = initTrace params s.dc) ∧
    (initTrace params s.dc).length = 155 ∧ requested (initTrace params s.dc) = 73494 ∧
    (s.dc.toNat ≤ 7 → (s.dc ||| 0x04) &&& 0xFC = 0x04)

/-- R14, R101: INIT walks `phase` through its values in order, and every write but the first, which comes at acceptance,
comes right after a wait. That `phase` is a register written so is the spec's decision D22. -/
def Obligations.InitWalksPhasesInOrder : Prop :=
  ∀ (P : Params) (dc dm : Byte), ∃ l, program P .init dc dm = .ok l ∧
    phasesOf l = [.priming, .fourBitSelected, .functionConfigured, .displayEnabled, .homePositioned, .cleared, .ready] ∧
    l.head? = some (.setPhase .priming) ∧ phaseAfterWait l

/-- R100, R102, R103, R105: what INIT transmits from any legal `DC`, for all parameters: the single nibbles 3, 3, 3, 2, then
six command bytes; the display-control ones carry `DC` with the display bit set, then without cursor, then without blink.
Single nibbles are the spec's decision D8; how the view tells them from bytes is the model's (assumption 16). -/
def Obligations.InitTransmitsFourNibblesThenSixCommands : Prop :=
  ∀ (P : Params) (dc dm : Byte), dc.toNat ≤ 7 → ∃ l, program P .init dc dm = .ok l ∧
    transfers (emitted l) = [.nibble false 3, .nibble false 3, .nibble false 3, .nibble false 2,
      .byte false 0x28, .byte false (0x08 ||| (dc ||| 0x04)), .byte false 0x02, .byte false 0x01,
      .byte false (0x08 ||| ((dc ||| 0x04) &&& 0xFD)), .byte false 0x0C]

/-! ### Glyph and text -/

/-- R140: CREATE_GLYPH: one set-CGRAM-address command `0x40 | ((slot & 7) << 3)`, then the eight pattern bytes in order and
unchanged; 163 micro-operations, 18073 µs at the defaults; RS ends high; a slot of 8 or more behaves as the slot modulo 8. -/
def Obligations.CreateGlyphUploadsEightRows : Prop :=
  ∀ (slot b : Byte) (p : Vector Byte 8) (s : State),
    decodeRequest (header 0x11 slot b 8) p.toList = .ok (.createGlyph slot p) ∧
    exec (.createGlyph slot p) s =
      .next { s with data := 0, e := false, rs := true,
                     trace := s.trace ++ (commandTrace params (0x40 ||| ((slot &&& 0x7) <<< 3)) ++
                       textTrace params p.toList) } ∧
    exec (.createGlyph (BitVec.ofNat 8 (slot.toNat % 8)) p) s = exec (.createGlyph slot p) s ∧
    bytes (commandTrace params (0x40 ||| ((slot &&& 0x7) <<< 3)) ++ textTrace params p.toList) =
      (false, 0x40 ||| ((slot &&& 0x7) <<< 3)) :: p.toList.map (fun v => (true, v)) ∧
    (commandTrace params (0x40 ||| ((slot &&& 0x7) <<< 3)) ++ textTrace params p.toList).length = 163 ∧
    requested (commandTrace params (0x40 ||| ((slot &&& 0x7) <<< 3)) ++ textTrace params p.toList) = 18073

/-- R143: WRITE_STRING, for every list of bytes and in every state: each byte as it is, in order; nothing at all for the
empty string; `18 n` micro-operations, `2004 n` µs at the defaults. That a string is counted is the spec's decision D17.
-/
def Obligations.WriteStringSendsEveryByte : Prop :=
  ∀ (p : List Byte) (a b : Byte) (s : State),
    (p.length ≤ 255 → decodeRequest (header 0x12 a b (BitVec.ofNat 8 p.length)) p = .ok (.writeString p)) ∧
    exec (.writeString p) s = .next (afterText s p) ∧
    bytes (textTrace params p) = p.map (fun v => (true, v)) ∧
    (textTrace params p).length = 18 * p.length ∧ requested (textTrace params p) = 2004 * p.length

/-- R147: WRITE_INT, for every operand and in every state: the decimal text of the operand read as a signed number. The
operand's width is the spec's decision D18. -/
def Obligations.WriteIntSendsDecimalText : Prop :=
  ∀ (v : BitVec 32) (s : State), exec (.writeInt v) s = .next (afterText s (dec v.toInt))

/-- R146: `digits` writes a number in decimal: its digits stand for it, they are ASCII digits, none is a leading zero;
`dec` puts 0x2D before the digits of the negation of a negative number; the text of a 32-bit operand has at most 11 bytes.
The form of the text is the spec's decision D18 and general knowledge (G15). -/
def Obligations.DecimalTextStandsForNumber : Prop :=
  (∀ m : Nat, valueOf (digits m) = m ∧ digits m ≠ [] ∧ (∀ b ∈ digits m, IsDigit b) ∧
    (m ≠ 0 → (digits m).head? ≠ some 0x30)) ∧
  digits 0 = [0x30] ∧
  (∀ v : Int, (0 ≤ v → dec v = digits v.toNat) ∧ (v < 0 → dec v = 0x2D :: digits (-v).toNat)) ∧
  (∀ v : BitVec 32, 1 ≤ (dec v.toInt).length ∧ (dec v.toInt).length ≤ 11)

/-- R149, R151: WRITE_FLOAT sends the text of `fmtFloat` when there is one of at most `FMT_BUF - 1` = 31 bytes, and is
refused by name when there is none or it is longer. The refusals are the spec's decision D19, the 31 bytes general
knowledge (G17). -/
def Obligations.WriteFloatSendsTextOrIsRefused : Prop :=
  ∀ (x : BitVec 64) (s : State),
    (∀ t, params.fmtFloat x = some t → t.length ≤ 31 → exec (.writeFloat x) s = .next (afterText s t)) ∧
    (∀ t, params.fmtFloat x = some t → 31 < t.length → exec (.writeFloat x) s = .refused .floatTextTooLong) ∧
    (params.fmtFloat x = none → exec (.writeFloat x) s = .refused .floatTextUndefined)

/-- R150 (the default format, G16): an infinity or a NaN has no text; a finite value has the text sign, integer part,
point, six digits, whose number `q` of millionths is the nearest integer to `|x| * 10^6`, ties to even (all scaled by
`2^1075`). The format is the spec's decision D19 (assumption 7). -/
def Obligations.FloatTextIsRoundedToSixPlaces : Prop :=
  ∀ x : BitVec 64,
    ((x.extractLsb' 52 11).toNat = 2047 → fmtFloat x = none) ∧
    ((x.extractLsb' 52 11).toNat ≠ 2047 → ∃ (q : Nat) (fp : List Byte),
      fmtFloat x = some ((if x.getLsbD 63 then [0x2D] else []) ++ digits (q / 10 ^ 6) ++ 0x2E :: fp) ∧
      fp.length = 6 ∧ (∀ b ∈ fp, IsDigit b) ∧ valueOf fp = q % 10 ^ 6 ∧
      2 * (q * 2 ^ 1075) ≤ 2 * (scaledAbs x * 10 ^ 6) + 2 ^ 1075 ∧
      2 * (scaledAbs x * 10 ^ 6) ≤ 2 * (q * 2 ^ 1075) + 2 ^ 1075 ∧
      (2 * (q * 2 ^ 1075) = 2 * (scaledAbs x * 10 ^ 6) + 2 ^ 1075 ∨
        2 * (scaledAbs x * 10 ^ 6) = 2 * (q * 2 ^ 1075) + 2 ^ 1075 → q % 2 = 0))

/-- R151: with the default format a finite value's text is longer than 31 bytes exactly for `x ≥ 10^24` or `x ≤ -10^23`.
It rests on the default format (assumption 7). -/
def Obligations.FloatTextOverflowsExactlyFromBounds : Prop :=
  ∀ (x : BitVec 64) (t : List Byte), fmtFloat x = some t →
    (31 < t.length ↔
      (x.getLsbD 63 = false ∧ 10 ^ 24 * 2 ^ 1075 ≤ scaledAbs x) ∨ (x.getLsbD 63 = true ∧ 10 ^ 23 * 2 ^ 1075 ≤ scaledAbs x))

/-- R68: an operation and its expansion into SEND_CMD and SEND_DATA requests issued one by one leave the same state: every
row of the table but INIT's, which InitTailIsFiveOperations states. A WRITE_FLOAT is the string of its text, where the
request has a behaviour. The sameness of the trace is the spec's own derivation; the bits and the commands are general
knowledge by its marks (G1, G2, G3; assumption 8). -/
def Obligations.ExpansionsAgreeWithRequestsOneByOne : Prop :=
  ∀ (s : State) (slot v col : Byte) (g : Vector Byte 8) (p : List Byte) (n : BitVec 32) (x : BitVec 64),
    exec .clear s = exec (.sendCmd 0x01) s ∧ exec .home s = exec (.sendCmd 0x02) s ∧
    (col.toNat < 16 → exec (.setCursor col 0) s = exec (.sendCmd (0x80 ||| (0x00 + col))) s ∧
      exec (.setCursor col 1) s = exec (.sendCmd (0x80 ||| (0x40 + col))) s) ∧
    (16 ≤ col.toNat → ∀ row, exec (.setCursor col row) s = .next s) ∧
    exec .displayOn s = exec (.sendCmd (0x08 ||| (s.dc ||| 0x04))) { s with dc := s.dc ||| 0x04 } ∧
    exec .displayOff s = exec (.sendCmd (0x08 ||| (s.dc &&& ~~~0x04))) { s with dc := s.dc &&& ~~~0x04 } ∧
    exec .cursorOn s = exec (.sendCmd (0x08 ||| (s.dc ||| 0x02))) { s with dc := s.dc ||| 0x02 } ∧
    exec .cursorOff s = exec (.sendCmd (0x08 ||| (s.dc &&& ~~~0x02))) { s with dc := s.dc &&& ~~~0x02 } ∧
    exec .blinkOn s = exec (.sendCmd (0x08 ||| (s.dc ||| 0x01))) { s with dc := s.dc ||| 0x01 } ∧
    exec .blinkOff s = exec (.sendCmd (0x08 ||| (s.dc &&& ~~~0x01))) { s with dc := s.dc &&& ~~~0x01 } ∧
    exec .leftToRight s = exec (.sendCmd (0x04 ||| (s.dm ||| 0x02))) { s with dm := s.dm ||| 0x02 } ∧
    exec .rightToLeft s = exec (.sendCmd (0x04 ||| (s.dm &&& ~~~0x02))) { s with dm := s.dm &&& ~~~0x02 } ∧
    exec .scrollLeft s = exec (.sendCmd 0x18) s ∧ exec .scrollRight s = exec (.sendCmd 0x1C) s ∧
    exec (.createGlyph slot g) s =
      andThen (exec (.sendCmd (0x40 ||| ((slot &&& 0x7) <<< 3))) s) (exec (.writeString g.toList)) ∧
    exec (.writeString []) s = .next s ∧
    exec (.writeString (v :: p)) s = andThen (exec (.sendData v) s) (exec (.writeString p)) ∧
    exec (.writeInt n) s = exec (.writeString (dec n.toInt)) s ∧
    (∀ t, params.fmtFloat x = some t → t.length ≤ 31 → exec (.writeFloat x) s = exec (.writeString t) s)

/-- R105: the tail of INIT is DISPLAY_ON, HOME, CLEAR, CURSOR_OFF, BLINK_OFF: INIT leaves the state those five requests
leave one after another behind the priming, the 4-bit select and SEND_CMD 0x28, but for `phase`. The form of what comes
before the tail is the spec's decisions D8, D9, D10. -/
def Obligations.InitTailIsFiveOperations : Prop :=
  ∀ s : State, ∃ u,
    andThen (andThen (andThen (andThen (andThen
      (exec (.sendCmd 0x28) { s with trace := s.trace ++ ([.w params.tPwr] ++ N params 3 false ++ [.w params.tPrime0] ++
        N params 3 false ++ [.w params.tPrime1] ++ N params 3 false ++ [.w params.tPrime2] ++
        N params 2 false ++ [.w params.tShort]) })
      (exec .displayOn)) (exec .home)) (exec .clear)) (exec .cursorOff)) (exec .blinkOff) = .next u ∧
    exec .init s = .next { u with phase := .ready }

/-! ### Laws of the whole block -/

/-- R174, R161: exactly the requests of conditions X2, X4 and X5 are refused, with no next state; every other
instruction, in every state, has a next state. The LCD command classes, which complete too, are executed by the model's choice
(assumption 3); X5, an infinity or a NaN, stands here as "the format has no text", which is what the default format answers
for those two (assumption 7). -/
def Obligations.RefusesExactlyUndefinedRequests : Prop :=
  ∀ (i : Instr) (s : State), ((∃ t, exec i s = .next t) ↔ defined params i) ∧
    (¬ defined params i → ∃ r, exec i s = .refused r)

/-- R163: where two tests could apply, legality comes first (an illegal request is a no-op whatever its operands are),
then the column before the row. What is illegal is the spec's decision D3. -/
def Obligations.TestsComeInTheSpecsOrder : Prop :=
  (∀ (a b n : Byte) (p : List Byte) (s : State) (rest : List Offer), n ≠ 0 → p.length = n.toNat →
    s.resetLine = false → s.busy = false → s.port = .request (header 0x06 a b n) p :: rest →
    step s = .next { s with port := rest }) ∧
  (∀ (col row : Byte) (s : State), 16 ≤ col.toNat → row ≠ 0 → row ≠ 1 → exec (.setCursor col row) s = .next s)

/-- R23, R10, R14: what an operation may write. When it completes, `DC` changes only by INIT and the display-control
toggles, `DM` only by the text-direction toggles, `phase` only by INIT; each toggle changes only its own bit; the
sequencer's position, the host's port and the model's own fields are as before; the lines are at rest or nothing happened
at all. The host's side and the model's own fields are those of assumption 10. -/
def Obligations.OperationsWriteOnlyTheirRegisters : Prop :=
  ∀ (i : Instr) (s t : State), exec i s = .next t →
    (writesDC i = false → t.dc = s.dc) ∧ (writesDM i = false → t.dm = s.dm) ∧ (i ≠ .init → t.phase = s.phase) ∧
    (i = .displayOn ∨ i = .displayOff → t.dc &&& 0xFB = s.dc &&& 0xFB) ∧
    (i = .cursorOn ∨ i = .cursorOff → t.dc &&& 0xFD = s.dc &&& 0xFD) ∧
    (i = .blinkOn ∨ i = .blinkOff → t.dc &&& 0xFE = s.dc &&& 0xFE) ∧
    (i = .leftToRight ∨ i = .rightToLeft → t.dm &&& 0xFD = s.dm &&& 0xFD) ∧
    (i = .init → t.dc &&& 0xF8 = s.dc &&& 0xF8) ∧
    t.busy = s.busy ∧ t.upc = s.upc ∧ t.prog = s.prog ∧ t.dly = s.dly ∧ t.port = s.port ∧
    t.resetLine = s.resetLine ∧ t.grain = s.grain ∧ s.trace <+: t.trace ∧
    (t = s ∨ (t.data = 0 ∧ t.e = false))

/-- R14, R161 X11: no operation reads `phase`: from two states that differ only in it, an operation answers the same but
for `phase` itself, which INIT overwrites. This is the spec's decision D22. -/
def Obligations.NoOperationReadsPhase : Prop :=
  ∀ (i : Instr) (s : State) (p : Phase),
    exec i { s with phase := p } = onNext (fun t => if i = .init then t else { t with phase := p }) (exec i s)

/-- R21, R16: no operation reads the lines: what it emits and writes into the registers does not depend on `DATA`, `E`,
`RS`; and unless it emits nothing, the lines after it do not either. It is the spec's own derivation (R21). -/
def Obligations.NoOperationReadsLines : Prop :=
  ∀ (i : Instr) (s t : State) (d : Nibble) (e r : Bool), exec i s = .next t →
    ∃ u, exec i { s with data := d, e := e, rs := r } = .next u ∧ u.trace = t.trace ∧ u.dc = t.dc ∧ u.dm = t.dm ∧
      u.phase = t.phase ∧ (t.trace ≠ s.trace → u = t)

/-- R61: the closed list: whatever an operation other than the raw commands transmits is a data byte (only the data
operations), a command byte of its row, or one of INIT's single nibbles; from legal masks and for all parameters. How the
view tells bytes from single nibbles is the model's (assumption 16). R61 is the spec's own derivation, and its bit places
general knowledge (G1 to G4; assumption 8). -/
def Obligations.OwnCommandsAreTheClosedList : Prop :=
  ∀ (P : Params) (i : Instr) (dc dm : Byte) (l : List Item), dc.toNat ≤ 7 → (dm = 0x00 ∨ dm = 0x02) →
    sendsRaw i = false → program P i dc dm = .ok l →
    ∀ x ∈ transfers (emitted l),
      match x with
      | .byte true _ => sendsData i = true
      | .byte false v => v ∈ ownCommands i
      | .nibble r d => i = .init ∧ r = false ∧ (d = 0x3 ∨ d = 0x2)

/-- R80, R81, R184, R43: for all parameters, every operation's trace is whole nibble transfers and waits: the lines are
written while `E` is low, one pulse a transfer with its low and high time, the data lines cleared, the settle wait kept.
The low wait of the pulse is the spec's decision D6. -/
def Obligations.EveryTraceIsWellTimed : Prop :=
  ∀ (P : Params) (i : Instr) (dc dm : Byte) (l : List Item), program P i dc dm = .ok l → wellTimed P (emitted l) = true

/-- R80: exactly one entry is added to `latched` for each pulse, in every trace of whole transfers. How the view starts is
the model's (assumption 16). -/
def Obligations.OneLatchedEntryPerPulse : Prop :=
  ∀ (P : Params) (t : List MicroOp), wellTimed P t = true → (latched t).length = t.count (.e true)

/-- R193: the number of micro-operations and the requested time of every operation, at the default parameters. R193 is the
spec's own derivation. The rows for the eight LCD command classes are not in R193's table: they are those of the SEND_CMD the
model executes them as (assumption 3). The length of a float's text rests on the default format (assumption 7). -/
def Obligations.RequestedTimesMatchTable : Prop :=
  ∀ (i : Instr) (dc dm : Byte) (l : List Item), dc.toNat ≤ 7 → (dm = 0x00 ∨ dm = 0x02) → program params i dc dm = .ok l →
    match i with
    | .init => (emitted l).length = 155 ∧ requested (emitted l) = 73494
    | .sendCmd v => (emitted l).length = 19 ∧ requested (emitted l) = if v.toNat < 4 then 3524 else 2041
    | .sendData _ => (emitted l).length = 18 ∧ requested (emitted l) = 2004
    | .clear | .home | .lcdClear | .lcdHome _ => (emitted l).length = 19 ∧ requested (emitted l) = 3524
    | .setCursor col _ => if col.toNat < 16 then (emitted l).length = 19 ∧ requested (emitted l) = 2041
        else (emitted l).length = 0 ∧ requested (emitted l) = 0
    | .displayOn | .displayOff | .cursorOn | .cursorOff | .blinkOn | .blinkOff | .leftToRight | .rightToLeft
    | .scrollLeft | .scrollRight | .lcdEntryMode _ _ | .lcdDisplayCtrl _ _ _ | .lcdShift _ _ _ | .lcdFunction _ _ _ _
    | .lcdSetCgram _ | .lcdSetDdram _ => (emitted l).length = 19 ∧ requested (emitted l) = 2041
    | .createGlyph _ _ => (emitted l).length = 163 ∧ requested (emitted l) = 18073
    | .writeString p => (emitted l).length = 18 * p.length ∧ requested (emitted l) = 2004 * p.length
    | .writeInt v => ∃ k, 1 ≤ k ∧ k ≤ 11 ∧ k = (dec v.toInt).length ∧ (emitted l).length = 18 * k ∧
        requested (emitted l) = 2004 * k
    | .writeFloat x => ∃ t, params.fmtFloat x = some t ∧ 8 ≤ t.length ∧ t.length ≤ 31 ∧
        (emitted l).length = 18 * t.length ∧ requested (emitted l) = 2004 * t.length

/-- R30: a micro-operation writes its field or bit of its own port and leaves every other bit of that port, and every other
port, as it was, whatever the widths, ports and positions are; a wait writes no port. The layout is an argument, since the
spec leaves it open (D25, assumption 18). -/
def Obligations.AdapterLeavesOtherPortBits : Prop :=
  (∀ (w : Nat) (port : BitVec w) (shift j : Nat) (n : Nibble), j < w →
    (writeField port shift n).getLsbD j =
      if shift ≤ j ∧ j < shift + 4 then n.getLsbD (j - shift) else port.getLsbD j) ∧
  (∀ (w : Nat) (port : BitVec w) (k j : Nat) (b : Bool), j < w →
    (writeBit port k b).getLsbD j = if j = k then b else port.getLsbD j) ∧
  (∀ (w : Nat) (L : PortLayout) (ports : List (BitVec w)) (j : Nat) (n : Nibble) (b : Bool) (t : Nat),
    (j ≠ L.dataPort → ((MicroOp.d n).onPorts L ports)[j]? = ports[j]?) ∧
    (j ≠ L.rsPort → ((MicroOp.rs b).onPorts L ports)[j]? = ports[j]?) ∧
    (j ≠ L.ePort → ((MicroOp.e b).onPorts L ports)[j]? = ports[j]?) ∧
    (∀ p, ports[L.dataPort]? = some p →
      ((MicroOp.d n).onPorts L ports)[L.dataPort]? = some (writeField p L.dataShift n)) ∧
    (∀ p, ports[L.rsPort]? = some p → ((MicroOp.rs b).onPorts L ports)[L.rsPort]? = some (writeBit p L.rsBit b)) ∧
    (∀ p, ports[L.ePort]? = some p → ((MicroOp.e b).onPorts L ports)[L.ePort]? = some (writeBit p L.eBit b)) ∧
    (MicroOp.w t).onPorts L ports = ports)

/-! ### The parameters of an implementation -/

/-- R6: the machine of the model is the machine that takes the parameters, at the default values: each meaning and each
step. The default values are the model's choice for `exec` and `step` (assumption 6). -/
def Obligations.ParametrizedMachineAtDefaultsIsTheMachine : Prop :=
  (∀ (i : Instr) (s : State), execAt params i s = exec i s) ∧ (∀ s : State, stepAt params s = step s)

/-- R6, R11, R12, R15, R16, R17: whatever values an implementation gives the parameters, every step of the machine with those
parameters keeps the invariant of the block. That an idle block holds no item list and that its `upc` and `dly` are 0 is the
model's assumption 5. -/
def Obligations.EveryParameterChoiceKeepsInvariant : Prop :=
  ∀ (P : Params) (s t : State), BlockInv s → stepAt P s = .next t → BlockInv t

/-- R193, its general formulas: the requested time of a nibble, of SEND_DATA, of SEND_CMD and of INIT as sums of the
parameters, for all their values; INIT's for every threshold that leaves the class of its six commands as at the default.
R193 is the spec's own derivation. -/
def Obligations.RequestedTimesFollowParameters : Prop :=
  ∀ (P : Params) (dc dm v : Byte) (f : Bool),
    let nib := P.tELow + P.tEHigh + P.tNibble
    requested (nibble P v f) = nib ∧
    (∃ l, program P (.sendData v) dc dm = .ok l ∧ requested (emitted l) = 2 * nib) ∧
    (∃ l, program P (.sendCmd v) dc dm = .ok l ∧
      requested (emitted l) = 2 * nib + if v.toNat < P.longThreshold.toNat then P.tLong else P.tShort) ∧
    (2 < P.longThreshold.toNat → P.longThreshold.toNat ≤ 8 → ∃ l, program P .init dc dm = .ok l ∧
      requested (emitted l) = P.tPwr + 4 * nib + (P.tPrime0 + P.tPrime1 + P.tPrime2) + P.tShort +
        4 * (2 * nib + P.tShort) + 2 * (2 * nib + P.tLong))
end

