-- ==== Sys2Proof/Laws/Decode.lean ====
section
/-! SUPPORT. The header's fields and the payload operands as numbers (spec 30_encoding R62, R63, R65). -/

namespace Sys2Proof

/-- Putting a byte below a bit vector multiplies by 256 and adds. -/
theorem toNat_append_byte {w : Nat} (x : BitVec w) (y : Byte) : (x ++ y).toNat = x.toNat * 256 + y.toNat := by
  rw [BitVec.toNat_append, ← Nat.shiftLeft_add_eq_or_of_lt y.isLt, Nat.shiftLeft_eq]

theorem header_toNat (op a b n : Byte) :
    (header op a b n).toNat = ((op.toNat * 256 + a.toNat) * 256 + b.toNat) * 256 + n.toNat := by
  have h : (header op a b n).toNat = (op ++ a ++ b ++ n : BitVec (8 + 8 + 8 + 8)).toNat := rfl
  simp only [h, toNat_append_byte]

theorem word32Of_toNat (p0 p1 p2 p3 : Byte) :
    (word32Of p0 p1 p2 p3).toNat = ((p3.toNat * 256 + p2.toNat) * 256 + p1.toNat) * 256 + p0.toNat := by
  have h : (word32Of p0 p1 p2 p3).toNat = (p3 ++ p2 ++ p1 ++ p0 : BitVec (8 + 8 + 8 + 8)).toNat := rfl
  simp only [h, toNat_append_byte]

theorem word64Of_toNat (p0 p1 p2 p3 p4 p5 p6 p7 : Byte) :
    (word64Of p0 p1 p2 p3 p4 p5 p6 p7).toNat =
      ((((((p7.toNat * 256 + p6.toNat) * 256 + p5.toNat) * 256 + p4.toNat) * 256 + p3.toNat) * 256 + p2.toNat) * 256 +
        p1.toNat) * 256 + p0.toNat := by
  have h : (word64Of p0 p1 p2 p3 p4 p5 p6 p7).toNat =
    (p7 ++ p6 ++ p5 ++ p4 ++ p3 ++ p2 ++ p1 ++ p0 : BitVec (8 + 8 + 8 + 8 + 8 + 8 + 8 + 8)).toNat := rfl
  simp only [h, toNat_append_byte]

/-- A byte of a word, by value. -/
theorem extract_byte_toNat {w : Nat} (x : BitVec w) (k : Nat) :
    (x.extractLsb' k 8).toNat = x.toNat / 2 ^ k % 256 := by
  rw [BitVec.extractLsb'_toNat, Nat.shiftRight_eq_div_pow]

@[simp] theorem opField_header (op a b n : Byte) : opField (header op a b n) = op := by
  apply BitVec.eq_of_toNat_eq
  rw [opField, extract_byte_toNat, header_toNat]
  omega

@[simp] theorem aField_header (op a b n : Byte) : aField (header op a b n) = a := by
  apply BitVec.eq_of_toNat_eq
  rw [aField, extract_byte_toNat, header_toNat]
  omega

@[simp] theorem bField_header (op a b n : Byte) : bField (header op a b n) = b := by
  apply BitVec.eq_of_toNat_eq
  rw [bField, extract_byte_toNat, header_toNat]
  omega

@[simp] theorem nField_header (op a b n : Byte) : nField (header op a b n) = n := by
  apply BitVec.eq_of_toNat_eq
  rw [nField, extract_byte_toNat, header_toNat]
  omega

/-- Every header word is the header of its four fields. -/
theorem header_fields (h : Word) : header (opField h) (aField h) (bField h) (nField h) = h := by
  apply BitVec.eq_of_toNat_eq
  rw [header_toNat, opField, aField, bField, nField, extract_byte_toNat, extract_byte_toNat, extract_byte_toNat,
    extract_byte_toNat]
  omega

/-- A request whose payload has the length its header counts is read by its operation code. -/
theorem decodeRequest_header (op a b n : Byte) (p : List Byte) (h : p.length = n.toNat) :
    decodeRequest (header op a b n) p = decodeOp op a b p := by
  simp [decodeRequest, h]

/-- A mask on a header acts on its four fields. -/
theorem header_and (op a b n op' a' b' n' : Byte) :
    header op a b n &&& header op' a' b' n' = header (op &&& op') (a &&& a') (b &&& b') (n &&& n') := by
  show ((op ++ a ++ b ++ n : BitVec (8 + 8 + 8 + 8)) &&& (op' ++ a' ++ b' ++ n' : BitVec (8 + 8 + 8 + 8))) =
    (_ ++ _ ++ _ ++ _ : BitVec (8 + 8 + 8 + 8))
  rw [BitVec.and_append, BitVec.and_append, BitVec.and_append]

/-- Two headers are the same word exactly when their fields are the same. -/
theorem header_inj {op a b n op' a' b' n' : Byte} :
    header op a b n = header op' a' b' n' ↔ op = op' ∧ a = a' ∧ b = b' ∧ n = n' := by
  constructor
  · intro e
    exact ⟨by simpa using congrArg opField e, by simpa using congrArg aField e, by simpa using congrArg bField e,
      by simpa using congrArg nField e⟩
  · rintro ⟨rfl, rfl, rfl, rfl⟩; rfl

theorem byte_and_ones : ∀ x : Byte, x &&& 0xFF = x := by decide

/-- A header under the mask of operation code and count (R64). -/
theorem header_mask (op a b n : Byte) : header op a b n &&& 0xFF0000FF = header op 0 0 n := by
  rw [show (0xFF0000FF : Word) = header 0xFF 0 0 0xFF by decide, header_and, byte_and_ones, byte_and_ones]
  simp

/-- A header under the mask of the operation code alone (R64). -/
theorem header_mask_op (op a b n : Byte) : header op a b n &&& 0xFF000000 = header op 0 0 0 := by
  rw [show (0xFF000000 : Word) = header 0xFF 0 0 0 by decide, header_and, byte_and_ones]
  simp

end Sys2Proof
end

