-- ==== Sys2Proof/Laws/Format.lean ====
section
/-! SUPPORT. The small laws of the two decimal formats (spec 43_glyph_and_text R146, R150). -/

namespace Sys2Proof.Machine

theorem digitByte_toNat {d : Nat} (h : d < 10) : (digitByte d).toNat = 0x30 + d := by
  simp [digitByte]
  omega

theorem digitsOnto_ne_nil (fuel m : Nat) (acc : List Byte) (h : 0 < fuel) : digitsOnto fuel m acc ≠ [] := by
  induction fuel generalizing m acc with
  | zero => omega
  | succ k ih =>
    unfold digitsOnto
    split
    · simp
    · cases k with
      | zero => simp [digitsOnto]
      | succ k => exact ih _ _ (by omega)

theorem digits_ne_nil (m : Nat) : digits m ≠ [] := digitsOnto_ne_nil _ _ _ (by omega)

theorem fixedDigits_length (k m : Nat) : (fixedDigits k m).length = k := by
  induction k generalizing m with
  | zero => rfl
  | succ k ih => simp [fixedDigits, ih]

/-- The rounded quotient is at most half a unit away from the exact one. -/
theorem roundHalfEven_near (n : Nat) {d : Nat} (hd : 0 < d) :
    2 * (roundHalfEven n d * d) ≤ 2 * n + d ∧ 2 * n ≤ 2 * (roundHalfEven n d * d) + d := by
  have h1 := Nat.div_add_mod n d
  have h2 := Nat.mod_lt n hd
  have h3 : d * (n / d) = n / d * d := Nat.mul_comm ..
  unfold roundHalfEven
  split
  · omega
  · split
    · rw [Nat.add_mul]; omega
    · split
      · omega
      · rw [Nat.add_mul]; omega

end Sys2Proof.Machine
end

