-- ==== Sys2Proof/Laws/State.lean ====
section
/-! SUPPORT. One lemma for each field and each update of the state: what an emitted micro-operation, an item, a reset and a
table word's offer leave in it. -/

namespace Sys2Proof.Machine

section Emit
variable (m : MicroOp) (s : State)

@[simp] theorem MicroOp.apply_dc : (m.apply s).dc = s.dc := by cases m <;> rfl
@[simp] theorem MicroOp.apply_dm : (m.apply s).dm = s.dm := by cases m <;> rfl
@[simp] theorem MicroOp.apply_phase : (m.apply s).phase = s.phase := by cases m <;> rfl
@[simp] theorem MicroOp.apply_busy : (m.apply s).busy = s.busy := by cases m <;> rfl
@[simp] theorem MicroOp.apply_upc : (m.apply s).upc = s.upc := by cases m <;> rfl
@[simp] theorem MicroOp.apply_prog : (m.apply s).prog = s.prog := by cases m <;> rfl
@[simp] theorem MicroOp.apply_dly : (m.apply s).dly = s.dly := by cases m <;> rfl
@[simp] theorem MicroOp.apply_trace : (m.apply s).trace = s.trace := by cases m <;> rfl
@[simp] theorem MicroOp.apply_port : (m.apply s).port = s.port := by cases m <;> rfl
@[simp] theorem MicroOp.apply_resetLine : (m.apply s).resetLine = s.resetLine := by cases m <;> rfl
@[simp] theorem MicroOp.apply_grain : (m.apply s).grain = s.grain := by cases m <;> rfl

@[simp] theorem MicroOp.apply_d_data (n : Nibble) : ((MicroOp.d n).apply s).data = n := rfl
@[simp] theorem MicroOp.apply_d_e (n : Nibble) : ((MicroOp.d n).apply s).e = s.e := rfl
@[simp] theorem MicroOp.apply_d_rs (n : Nibble) : ((MicroOp.d n).apply s).rs = s.rs := rfl
@[simp] theorem MicroOp.apply_rs_data (b : Bool) : ((MicroOp.rs b).apply s).data = s.data := rfl
@[simp] theorem MicroOp.apply_rs_e (b : Bool) : ((MicroOp.rs b).apply s).e = s.e := rfl
@[simp] theorem MicroOp.apply_rs_rs (b : Bool) : ((MicroOp.rs b).apply s).rs = b := rfl
@[simp] theorem MicroOp.apply_e_data (b : Bool) : ((MicroOp.e b).apply s).data = s.data := rfl
@[simp] theorem MicroOp.apply_e_e (b : Bool) : ((MicroOp.e b).apply s).e = b := rfl
@[simp] theorem MicroOp.apply_e_rs (b : Bool) : ((MicroOp.e b).apply s).rs = s.rs := rfl
@[simp] theorem MicroOp.apply_w (t : Nat) : (MicroOp.w t).apply s = s := rfl

@[simp] theorem emitOp_dc : (emitOp m s).dc = s.dc := by simp [emitOp]
@[simp] theorem emitOp_dm : (emitOp m s).dm = s.dm := by simp [emitOp]
@[simp] theorem emitOp_phase : (emitOp m s).phase = s.phase := by simp [emitOp]
@[simp] theorem emitOp_busy : (emitOp m s).busy = s.busy := by simp [emitOp]
@[simp] theorem emitOp_upc : (emitOp m s).upc = s.upc := by simp [emitOp]
@[simp] theorem emitOp_prog : (emitOp m s).prog = s.prog := by simp [emitOp]
@[simp] theorem emitOp_dly : (emitOp m s).dly = s.dly := by simp [emitOp]
@[simp] theorem emitOp_port : (emitOp m s).port = s.port := by simp [emitOp]
@[simp] theorem emitOp_resetLine : (emitOp m s).resetLine = s.resetLine := by simp [emitOp]
@[simp] theorem emitOp_grain : (emitOp m s).grain = s.grain := by simp [emitOp]
@[simp] theorem emitOp_trace : (emitOp m s).trace = s.trace ++ [m] := rfl
@[simp] theorem emitOp_data : (emitOp m s).data = (m.apply s).data := rfl
@[simp] theorem emitOp_e : (emitOp m s).e = (m.apply s).e := rfl
@[simp] theorem emitOp_rs : (emitOp m s).rs = (m.apply s).rs := rfl

end Emit

section Items
variable (i : Item) (s : State)

@[simp] theorem Item.apply_micro (m : MicroOp) : (Item.micro m).apply s = emitOp m s := rfl
@[simp] theorem Item.apply_setDC (v : Byte) : (Item.setDC v).apply s = { s with dc := v } := rfl
@[simp] theorem Item.apply_setDM (v : Byte) : (Item.setDM v).apply s = { s with dm := v } := rfl
@[simp] theorem Item.apply_setPhase (p : Phase) : (Item.setPhase p).apply s = { s with phase := p } := rfl

@[simp] theorem Item.apply_busy : (i.apply s).busy = s.busy := by cases i <;> simp
@[simp] theorem Item.apply_upc : (i.apply s).upc = s.upc := by cases i <;> simp
@[simp] theorem Item.apply_prog : (i.apply s).prog = s.prog := by cases i <;> simp
@[simp] theorem Item.apply_dly : (i.apply s).dly = s.dly := by cases i <;> simp
@[simp] theorem Item.apply_port : (i.apply s).port = s.port := by cases i <;> simp
@[simp] theorem Item.apply_resetLine : (i.apply s).resetLine = s.resetLine := by cases i <;> simp
@[simp] theorem Item.apply_grain : (i.apply s).grain = s.grain := by cases i <;> simp
@[simp] theorem Item.apply_trace : (i.apply s).trace = s.trace ++ emitted [i] := by
  cases i <;> simp [emitted]

end Items

section Reset
variable (s : State)

@[simp] theorem takeReset_dc : (takeReset s).dc = 0 := rfl
@[simp] theorem takeReset_dm : (takeReset s).dm = 0 := rfl
@[simp] theorem takeReset_phase : (takeReset s).phase = .unpowered := rfl
@[simp] theorem takeReset_busy : (takeReset s).busy = false := rfl
@[simp] theorem takeReset_upc : (takeReset s).upc = 0 := rfl
@[simp] theorem takeReset_prog : (takeReset s).prog = [] := rfl
@[simp] theorem takeReset_data : (takeReset s).data = 0 := rfl
@[simp] theorem takeReset_e : (takeReset s).e = false := rfl
@[simp] theorem takeReset_rs : (takeReset s).rs = false := rfl
@[simp] theorem takeReset_dly : (takeReset s).dly = 0 := rfl
@[simp] theorem takeReset_trace : (takeReset s).trace = s.trace := rfl
@[simp] theorem takeReset_port : (takeReset s).port = s.port := rfl
@[simp] theorem takeReset_resetLine : (takeReset s).resetLine = false := rfl
@[simp] theorem takeReset_grain : (takeReset s).grain = s.grain := rfl

end Reset

end Sys2Proof.Machine
end

