-- ==== Sys2Proof/Laws/Ops.lean ====
section
/-! SUPPORT. What running an item list can do, said once: the trace it appends, the fields it never touches, and the exact
state after a transfer, a command and a text. -/

namespace Sys2Proof.Machine

/-! ### Item lists -/

@[simp] theorem runItems_nil (s : State) : runItems [] s = s := rfl
@[simp] theorem runItems_cons (i : Item) (l : List Item) (s : State) :
    runItems (i :: l) s = runItems l (i.apply s) := rfl

theorem runItems_append (l m : List Item) (s : State) :
    runItems (l ++ m) s = runItems m (runItems l s) := by
  induction l generalizing s with
  | nil => rfl
  | cons i l ih => exact ih _

@[simp] theorem emits_nil : emits [] = [] := rfl
@[simp] theorem emits_cons (m : MicroOp) (l : List MicroOp) : emits (m :: l) = .micro m :: emits l := rfl
@[simp] theorem emits_append (l m : List MicroOp) : emits (l ++ m) = emits l ++ emits m := by simp [emits]

@[simp] theorem emitted_nil : emitted [] = [] := rfl
@[simp] theorem emitted_micro (m : MicroOp) (l : List Item) : emitted (.micro m :: l) = m :: emitted l := rfl
@[simp] theorem emitted_setDC (v : Byte) (l : List Item) : emitted (.setDC v :: l) = emitted l := rfl
@[simp] theorem emitted_setDM (v : Byte) (l : List Item) : emitted (.setDM v :: l) = emitted l := rfl
@[simp] theorem emitted_setPhase (p : Phase) (l : List Item) : emitted (.setPhase p :: l) = emitted l := rfl

@[simp] theorem emitted_append (l m : List Item) : emitted (l ++ m) = emitted l ++ emitted m := by
  induction l with
  | nil => rfl
  | cons i l ih => cases i <;> simp [ih]

@[simp] theorem emitted_emits (l : List MicroOp) : emitted (emits l) = l := by
  induction l with
  | nil => rfl
  | cons m l ih => simp [ih]

/-! ### The frame of an item list -/

theorem runItems_trace (l : List Item) (s : State) : (runItems l s).trace = s.trace ++ emitted l := by
  induction l generalizing s with
  | nil => simp
  | cons i l ih => cases i <;> simp [ih]

@[simp] theorem runItems_busy (l : List Item) (s : State) : (runItems l s).busy = s.busy := by
  induction l generalizing s with
  | nil => rfl
  | cons i l ih => simp [ih]
@[simp] theorem runItems_upc (l : List Item) (s : State) : (runItems l s).upc = s.upc := by
  induction l generalizing s with
  | nil => rfl
  | cons i l ih => simp [ih]
@[simp] theorem runItems_prog (l : List Item) (s : State) : (runItems l s).prog = s.prog := by
  induction l generalizing s with
  | nil => rfl
  | cons i l ih => simp [ih]
@[simp] theorem runItems_dly (l : List Item) (s : State) : (runItems l s).dly = s.dly := by
  induction l generalizing s with
  | nil => rfl
  | cons i l ih => simp [ih]
@[simp] theorem runItems_port (l : List Item) (s : State) : (runItems l s).port = s.port := by
  induction l generalizing s with
  | nil => rfl
  | cons i l ih => simp [ih]
@[simp] theorem runItems_resetLine (l : List Item) (s : State) : (runItems l s).resetLine = s.resetLine := by
  induction l generalizing s with
  | nil => rfl
  | cons i l ih => simp [ih]
@[simp] theorem runItems_grain (l : List Item) (s : State) : (runItems l s).grain = s.grain := by
  induction l generalizing s with
  | nil => rfl
  | cons i l ih => simp [ih]

/-- Micro-operations write no register of the register file (R8). -/
@[simp] theorem runItems_emits_dc (l : List MicroOp) (s : State) : (runItems (emits l) s).dc = s.dc := by
  induction l generalizing s with
  | nil => rfl
  | cons m l ih => simp [ih]
@[simp] theorem runItems_emits_dm (l : List MicroOp) (s : State) : (runItems (emits l) s).dm = s.dm := by
  induction l generalizing s with
  | nil => rfl
  | cons m l ih => simp [ih]
@[simp] theorem runItems_emits_phase (l : List MicroOp) (s : State) : (runItems (emits l) s).phase = s.phase := by
  induction l generalizing s with
  | nil => rfl
  | cons m l ih => simp [ih]

/-- The fields that place the sequencer: no item reads or writes them (R16). -/
def State.withSequencer (s : State) (busy : Bool) (upc : Nat) (prog : List Item) (dly : BitVec 16) : State :=
  { s with busy := busy, upc := upc, prog := prog, dly := dly }

theorem Item.apply_withSequencer (i : Item) (s : State) (b : Bool) (u : Nat) (p : List Item) (d : BitVec 16) :
    i.apply (s.withSequencer b u p d) = (i.apply s).withSequencer b u p d := by
  rcases i with (_ | _ | _ | _) | _ | _ | _ <;> rfl

theorem runItems_withSequencer (l : List Item) (s : State) (b : Bool) (u : Nat) (p : List Item) (d : BitVec 16) :
    runItems l (s.withSequencer b u p d) = (runItems l s).withSequencer b u p d := by
  induction l generalizing s with
  | nil => rfl
  | cons i l ih => rw [runItems_cons, runItems_cons, Item.apply_withSequencer, ih]

/-! ### The two ways a program is taken -/

@[simp] theorem complete_ok (l : List Item) (s : State) : complete (.ok l) s = .next (runItems l s) := rfl
@[simp] theorem complete_error (r : Refusal) (s : State) : complete (.error r) s = .refused r := rfl

theorem complete_next {p : Program} {s t : State} (h : complete p s = .next t) :
    ∃ l, p = .ok l ∧ t = runItems l s := by
  cases p with
  | error r => cases h
  | ok l => exact ⟨l, rfl, by simpa using h.symm⟩

@[simp] theorem begin_nil (s : State) : begin (.ok []) s = .next s := rfl
@[simp] theorem begin_cons (i : Item) (l : List Item) (s : State) :
    begin (.ok (i :: l)) s = .next { s with busy := true, upc := 0, prog := i :: l, dly := 0 } := rfl
@[simp] theorem begin_error (r : Refusal) (s : State) : begin (.error r) s = .refused r := rfl

theorem begin_next {p : Program} {s t : State} (h : begin p s = .next t) :
    (p = .ok [] ∧ t = s) ∨
    ∃ i l, p = .ok (i :: l) ∧ t = { s with busy := true, upc := 0, prog := i :: l, dly := 0 } := by
  match p with
  | .error r => cases h
  | .ok [] => exact .inl ⟨rfl, by simpa using h.symm⟩
  | .ok (i :: l) => exact .inr ⟨i, l, rfl, by simpa using h.symm⟩

end Sys2Proof.Machine
end

