-- ==== Sys2Proof/Laws/PerInstr.lean ====
section
/-! SUPPORT. The family `RowMatch`: what the encoder writes for an instruction satisfies the `match` and `mask` of that
instruction's own row of spec/opcode_table.json, and carries the payload its header counts. One lemma for each
constructor. -/

namespace Sys2Proof.Laws.RowMatch

open Sys2Proof

/-- An offer lies in a row: a request in a row of format HOSTREQ, with the payload it counts; a command in a row of format
LCDCMD. -/
def InRow (o : Offer) (r : Option (Word × Word)) (c : Option (Byte × Byte)) : Prop :=
  match o with
  | .request h p => p.length = (nField h).toNat ∧ ∃ m k, r = some (m, k) ∧ h &&& k = m
  | .command v => ∃ m k, c = some (m, k) ∧ v &&& k = m

/-- The encoded offer of a well-formed instruction lies in the instruction's row. -/
def Statement (i : Instr) : Prop := WellFormed i → InRow (encode i) (requestRow i) (lcdRow i)

/-- A row with a fixed count. -/
theorem fixed {op a b n : Byte} {p : List Byte} {m : Word} (c : Option (Byte × Byte)) (hp : p.length = n.toNat)
    (hm : header op 0 0 n = m) : InRow (.request (header op a b n) p) (some (m, 0xFF0000FF)) c :=
  ⟨by simpa using hp, m, _, rfl, by rw [header_mask, hm]⟩

theorem init : Statement .init := fun _ => fixed _ rfl (by decide)
theorem clear : Statement .clear := fun _ => fixed _ rfl (by decide)
theorem home : Statement .home := fun _ => fixed _ rfl (by decide)
theorem displayOn : Statement .displayOn := fun _ => fixed _ rfl (by decide)
theorem displayOff : Statement .displayOff := fun _ => fixed _ rfl (by decide)
theorem cursorOn : Statement .cursorOn := fun _ => fixed _ rfl (by decide)
theorem cursorOff : Statement .cursorOff := fun _ => fixed _ rfl (by decide)
theorem blinkOn : Statement .blinkOn := fun _ => fixed _ rfl (by decide)
theorem blinkOff : Statement .blinkOff := fun _ => fixed _ rfl (by decide)
theorem leftToRight : Statement .leftToRight := fun _ => fixed _ rfl (by decide)
theorem rightToLeft : Statement .rightToLeft := fun _ => fixed _ rfl (by decide)
theorem scrollLeft : Statement .scrollLeft := fun _ => fixed _ rfl (by decide)
theorem scrollRight : Statement .scrollRight := fun _ => fixed _ rfl (by decide)
theorem sendCmd (v : Byte) : Statement (.sendCmd v) := fun _ => fixed _ rfl (by decide)
theorem sendData (v : Byte) : Statement (.sendData v) := fun _ => fixed _ rfl (by decide)
theorem setCursor (col row : Byte) : Statement (.setCursor col row) := fun _ => fixed _ rfl (by decide)
theorem createGlyph (slot : Byte) (p : Vector Byte Config.glyphRows) : Statement (.createGlyph slot p) :=
  fun _ => fixed _ (by simp) (by decide)
theorem writeString (p : List Byte) : Statement (.writeString p) := by
  intro h
  have h : p.length ≤ 255 := of_decide_eq_true h
  refine ⟨?_, _, _, rfl, by rw [header_mask_op]; decide⟩
  rw [nField_header, BitVec.toNat_ofNat]
  omega
theorem writeInt (v : BitVec Config.intWidth) : Statement (.writeInt v) := fun _ => fixed _ rfl (by decide)
theorem writeFloat (x : BitVec 64) : Statement (.writeFloat x) := fun _ => fixed _ rfl (by decide)
theorem lcdClear : Statement .lcdClear := fun _ => ⟨_, _, rfl, by decide⟩
theorem lcdHome (x : Bool) : Statement (.lcdHome x) := fun _ => ⟨_, _, rfl, by revert x; decide⟩
theorem lcdEntryMode (inc shift : Bool) : Statement (.lcdEntryMode inc shift) :=
  fun _ => ⟨_, _, rfl, by revert inc shift; decide⟩
theorem lcdDisplayCtrl (disp cursor blink : Bool) : Statement (.lcdDisplayCtrl disp cursor blink) :=
  fun _ => ⟨_, _, rfl, by revert disp cursor blink; decide⟩
theorem lcdShift (move right : Bool) (x : BitVec 2) : Statement (.lcdShift move right x) :=
  fun _ => ⟨_, _, rfl, by revert move right x; decide⟩
theorem lcdFunction (bus8 lines2 font10 : Bool) (x : BitVec 2) : Statement (.lcdFunction bus8 lines2 font10 x) :=
  fun _ => ⟨_, _, rfl, by revert bus8 lines2 font10 x; decide⟩
theorem lcdSetCgram (a : BitVec 6) : Statement (.lcdSetCgram a) := fun _ => ⟨_, _, rfl, by revert a; decide⟩
theorem lcdSetDdram (a : BitVec 7) : Statement (.lcdSetDdram a) := fun _ => ⟨_, _, rfl, by revert a; decide⟩

end Sys2Proof.Laws.RowMatch
end

