-- ==== Sys2Proof/Laws/Transfer.lean ====
section
/-! SUPPORT. The exact state after a nibble transfer, a byte, a command and a text (spec 40_transfer_primitives), and each
instruction's meaning as its program run whole. -/

namespace Sys2Proof.Machine

/-- The lines after a transfer tagged `f`, and the trace it appended (R17, R81). -/
def afterTransfer (s : State) (f : Bool) (l : List MicroOp) : State :=
  { s with data := 0, e := false, rs := f, trace := s.trace ++ l }

theorem runItems_nibble (P : Params) (v : Byte) (f : Bool) (s : State) :
    runItems (emits (nibble P v f)) s = afterTransfer s f (nibble P v f) := by
  simp [nibble, pulse, afterTransfer, emitOp, MicroOp.apply]

theorem runItems_wait (t : Nat) (s : State) :
    runItems (emits [.w t]) s = { s with trace := s.trace ++ [.w t] } := rfl

theorem runItems_sendByte (P : Params) (v : Byte) (f : Bool) (s : State) :
    runItems (emits (sendByte P v f)) s = afterTransfer s f (sendByte P v f) := by
  simp [sendByte, runItems_append, runItems_nibble, afterTransfer]

theorem runItems_sendCommand (P : Params) (v : Byte) (s : State) :
    runItems (emits (sendCommand P v)) s = afterTransfer s false (sendCommand P v) := by
  simp [sendCommand, runItems_append, runItems_sendByte, afterTransfer, emitOp]

theorem runItems_sendDatum (P : Params) (v : Byte) (s : State) :
    runItems (emits (sendDatum P v)) s = afterTransfer s true (sendDatum P v) :=
  runItems_sendByte P v true s

@[simp] theorem sendText_nil (P : Params) : sendText P [] = [] := rfl
@[simp] theorem sendText_cons (P : Params) (v : Byte) (p : List Byte) :
    sendText P (v :: p) = sendDatum P v ++ sendText P p := rfl
theorem sendText_append (P : Params) (p q : List Byte) :
    sendText P (p ++ q) = sendText P p ++ sendText P q := by simp [sendText]

theorem runItems_sendText (P : Params) (p : List Byte) (s : State) :
    runItems (emits (sendText P p)) s = if p = [] then s else afterTransfer s true (sendText P p) := by
  induction p generalizing s with
  | nil => rfl
  | cons v p ih =>
    simp only [sendText_cons, emits_append, runItems_append, runItems_sendDatum, ih]
    by_cases hp : p = [] <;> simp [hp, afterTransfer]

/-- Every meaning is its program run whole (R16). -/
theorem exec_eq_complete (i : Instr) (s : State) : exec i s = complete (program params i s.dc s.dm) s := by
  cases i <;> rfl

/-! ### The position map -/

@[simp] theorem rowBase_zero : rowBase 0 = some 0x00#7 := rfl

@[simp] theorem rowBase_one : rowBase 1 = some 0x40#7 := rfl

theorem rowBase_other {row : Byte} (h0 : row ≠ 0) (h1 : row ≠ 1) : rowBase row = none :=
  if_neg (fun h => by simp only [Config.rows] at h; bv_omega)

end Sys2Proof.Machine
end

