-- ==== Sys2Proof/Laws/Programs.lean ====
section
/-! SUPPORT. Everything an instruction's item list can be (spec 10_state R16), said once; what running items never touches;
and the exact state after a compose-mask-then-send (42_presentation R110). -/

namespace Sys2Proof.Machine

/-- The six forms of an item list. -/
inductive ProgramShape (P : Params) (dc dm : Byte) : List Item → Prop
  /-- One command. -/
  | command (v : Byte) : ProgramShape P dc dm (emits (sendCommand P v))
  /-- Data bytes, possibly none. -/
  | text (p : List Byte) : ProgramShape P dc dm (emits (sendText P p))
  /-- A `DC` toggle, whose new mask is legal when the old one is. -/
  | toggleDC (v : Byte) (h : dc.toNat ≤ 7 → v.toNat ≤ 7) : ProgramShape P dc dm (Machine.toggleDC P v)
  /-- A `DM` toggle, whose new mask is legal when the old one is. -/
  | toggleDM (v : Byte) (h : dm = 0 ∨ dm = 2 → v = 0 ∨ v = 2) : ProgramShape P dc dm (Machine.toggleDM P v)
  /-- A command, then data bytes. -/
  | glyph (v : Byte) (p : List Byte) : ProgramShape P dc dm (emits (sendCommand P v ++ sendText P p))
  /-- INIT. -/
  | init : ProgramShape P dc dm (initItems P dc)

theorem toggleDC_legal : ∀ dc : Byte, dc.toNat ≤ 7 →
    (setBits dc dcDisplayOn).toNat ≤ 7 ∧ (clearBits dc dcDisplayOn).toNat ≤ 7 ∧ (setBits dc dcCursorOn).toNat ≤ 7 ∧
    (clearBits dc dcCursorOn).toNat ≤ 7 ∧ (setBits dc dcBlinkOn).toNat ≤ 7 ∧ (clearBits dc dcBlinkOn).toNat ≤ 7 := by
  decide

theorem toggleDM_legal : ∀ dm : Byte, dm = 0 ∨ dm = 2 →
    (setBits dm dmLeftToRight = 0 ∨ setBits dm dmLeftToRight = 2) ∧
    (clearBits dm dmLeftToRight = 0 ∨ clearBits dm dmLeftToRight = 2) := by decide

/-- Every instruction's item list has one of the six forms. -/
theorem program_shape {P : Params} {i : Instr} {dc dm : Byte} {l : List Item} (h : program P i dc dm = .ok l) :
    ProgramShape P dc dm l := by
  have inj : ∀ {a : List Item}, (Except.ok a : Program) = .ok l → l = a := fun h => by cases h; rfl
  cases i
  case init => obtain rfl := inj h; exact .init
  case setCursor c r =>
    simp only [program, progSetCursor] at h
    split at h
    · split at h
      · obtain rfl := inj h; exact .command _
      · cases h
    · obtain rfl := inj h; exact .text []
  case displayOn => obtain rfl := inj h; exact .toggleDC _ fun hh => (toggleDC_legal _ hh).1
  case displayOff => obtain rfl := inj h; exact .toggleDC _ fun hh => (toggleDC_legal _ hh).2.1
  case cursorOn => obtain rfl := inj h; exact .toggleDC _ fun hh => (toggleDC_legal _ hh).2.2.1
  case cursorOff => obtain rfl := inj h; exact .toggleDC _ fun hh => (toggleDC_legal _ hh).2.2.2.1
  case blinkOn => obtain rfl := inj h; exact .toggleDC _ fun hh => (toggleDC_legal _ hh).2.2.2.2.1
  case blinkOff => obtain rfl := inj h; exact .toggleDC _ fun hh => (toggleDC_legal _ hh).2.2.2.2.2
  case leftToRight => obtain rfl := inj h; exact .toggleDM _ fun hh => (toggleDM_legal _ hh).1
  case rightToLeft => obtain rfl := inj h; exact .toggleDM _ fun hh => (toggleDM_legal _ hh).2
  case createGlyph => obtain rfl := inj h; exact .glyph _ _
  case writeString => obtain rfl := inj h; exact .text _
  case writeInt => obtain rfl := inj h; exact .text _
  case writeFloat x =>
    simp only [program, progWriteFloat] at h
    split at h
    · cases h
    · split at h
      · cases h
      · obtain rfl := inj h; exact .text _
  case sendData v =>
    obtain rfl := inj h
    simpa [sendText] using ProgramShape.text (P := P) (dc := dc) (dm := dm) [v]
  all_goals (obtain rfl := inj h; exact .command _)

/-- Running items leaves the sequencer's place, the host's side and the model's own fields, and the trace only grows. -/
theorem runItems_frame (l : List Item) (s : State) :
    (runItems l s).busy = s.busy ∧ (runItems l s).upc = s.upc ∧ (runItems l s).prog = s.prog ∧
    (runItems l s).dly = s.dly ∧ (runItems l s).port = s.port ∧ (runItems l s).resetLine = s.resetLine ∧
    (runItems l s).grain = s.grain ∧ s.trace <+: (runItems l s).trace := by
  refine ⟨?_, ?_, ?_, ?_, ?_, ?_, ?_, by rw [runItems_trace]; exact List.prefix_append ..⟩ <;>
    induction l generalizing s with
    | nil => rfl
    | cons i l ih => rw [runItems_cons, ih]; simp

theorem runItems_toggleDC (P : Params) (v : Byte) (s : State) :
    runItems (toggleDC P v) s = afterTransfer { s with dc := v } false (sendCommand P (displayControlCmd v)) := by
  simp only [toggleDC, runItems_cons, Item.apply_setDC, runItems_sendCommand]

theorem runItems_toggleDM (P : Params) (v : Byte) (s : State) :
    runItems (toggleDM P v) s = afterTransfer { s with dm := v } false (sendCommand P (entryModeCmd v)) := by
  simp only [toggleDM, runItems_cons, Item.apply_setDM, runItems_sendCommand]

end Sys2Proof.Machine
end

