-- ==== Sys2Proof/Laws/Sequencer.lean ====
section
/-! SUPPORT. What one step can do, said once: the four kinds of step, the three kinds of step of a busy sequencer, and what
the acceptance of an offer answers. -/

namespace Sys2Proof.Machine

/-- The four kinds of step (R16, R163, R180, R190), at any parameters. -/
theorem stepWith_cases {P : Params} {run : Meaning} {s t : State} (h : stepWith P run s = .next t) :
    (s.resetLine = true ∧ t = takeReset s) ∨
    (s.resetLine = false ∧ s.busy = true ∧ t = seqStep s) ∨
    (s.resetLine = false ∧ s.busy = false ∧ s.port = [] ∧ t = s) ∨
    (s.resetLine = false ∧ s.busy = false ∧ ∃ o rest, s.port = o :: rest ∧ serve P run o { s with port := rest } = .next t) := by
  unfold stepWith at h
  split at h
  · rename_i hr; exact .inl ⟨hr, by simpa using h.symm⟩
  · rename_i hr
    have hr : s.resetLine = false := by simpa using hr
    unfold advance at h
    split at h
    · rename_i hb; exact .inr (.inl ⟨hr, hb, by simpa using h.symm⟩)
    · rename_i hb
      have hb : s.busy = false := by simpa using hb
      split at h
      · rename_i hp; exact .inr (.inr (.inl ⟨hr, hb, hp, by simpa using h.symm⟩))
      · rename_i o rest hp; exact .inr (.inr (.inr ⟨hr, hb, o, rest, hp, h⟩))

/-- The four kinds of step of the machine. -/
theorem step_cases {s t : State} (h : step s = .next t) :
    (s.resetLine = true ∧ t = takeReset s) ∨
    (s.resetLine = false ∧ s.busy = true ∧ t = seqStep s) ∨
    (s.resetLine = false ∧ s.busy = false ∧ s.port = [] ∧ t = s) ∨
    (s.resetLine = false ∧ s.busy = false ∧ ∃ o rest, s.port = o :: rest ∧ serve params exec o { s with port := rest } = .next t) :=
  stepWith_cases h

theorem step_reset {s : State} (h : s.resetLine = true) : step s = .next (takeReset s) := by
  simp [step, stepWith, h]

theorem step_busy {s : State} (hr : s.resetLine = false) (hb : s.busy = true) : step s = .next (seqStep s) := by
  simp [step, stepWith, advance, hr, hb]

theorem step_idle {s : State} (hr : s.resetLine = false) (hb : s.busy = false) (hp : s.port = []) :
    step s = .next s := by simp [step, stepWith, advance, hr, hb, hp]

theorem step_serve {s : State} {o : Offer} {rest : List Offer} (hr : s.resetLine = false) (hb : s.busy = false)
    (hp : s.port = o :: rest) : step s = serve params exec o { s with port := rest } := by
  simp [step, stepWith, advance, hr, hb, hp]

theorem serve_ok {P : Params} {run : Meaning} {o : Offer} {i : Instr} (s : State) (h : decodeOffer o = .ok i) :
    serve P run o s = accept P run i s := by
  simp [serve, h]

/-- What an accepted offer answers, where the meanings run the programs of `P` whole. -/
theorem serve_cases {P : Params} {run : Meaning} (hrun : ∀ i u, run i u = execAt P i u) {o : Offer} {s t : State}
    (h : serve P run o s = .next t) :
    t = s ∨ ∃ i l, decodeOffer o = .ok i ∧ program P i s.dc s.dm = .ok l ∧
      ((s.grain = .request ∧ t = runItems l s) ∨
       (s.grain = .item ∧ ∃ j m, l = j :: m ∧ t = { s with busy := true, upc := 0, prog := l, dly := 0 })) := by
  unfold serve at h
  split at h
  · rename_i i hd
    unfold accept at h
    split at h
    · rename_i hg
      rw [hrun] at h
      obtain ⟨l, hl, rfl⟩ := complete_next h
      exact .inr ⟨i, l, hd, hl, .inl ⟨hg, rfl⟩⟩
    · rename_i hg
      obtain ⟨-, rfl⟩ | ⟨j, m, hl, rfl⟩ := begin_next h
      · exact .inl rfl
      · exact .inr ⟨i, _, hd, hl, .inr ⟨hg, j, m, rfl, rfl⟩⟩
  · exact .inl (by simpa using h.symm)
  · exact .inl (by simpa using h.symm)
  · cases h

/-! ### A busy sequencer -/

theorem finish_done {s : State} (hd : s.dly = 0) (hu : s.prog.length ≤ s.upc) :
    finish s = { s with busy := false, upc := 0, prog := [] } := by simp [finish, hd, hu]

theorem finish_waiting {s : State} (hd : s.dly ≠ 0) : finish s = s := if_neg (fun h => hd h.1)

theorem finish_more {s : State} (hu : s.upc < s.prog.length) : finish s = s := by
  simp [finish, Nat.not_le.mpr hu]

theorem seqStep_wait {s : State} (hd : s.dly ≠ 0) : seqStep s = finish { s with dly := s.dly - 1 } :=
  if_neg hd

theorem seqStep_item {s : State} (hd : s.dly = 0) (hu : s.upc < s.prog.length) :
    seqStep s = finish { (s.prog[s.upc]).apply s with upc := s.upc + 1, dly := (s.prog[s.upc]).delay } := by
  simp [seqStep, itemStep, hd, hu]

theorem seqStep_none {s : State} (hd : s.dly = 0) (hu : s.prog.length ≤ s.upc) : seqStep s = finish s := by
  simp [seqStep, itemStep, hd, List.getElem?_eq_none hu]

@[simp] theorem finish_trace (s : State) : (finish s).trace = s.trace := by unfold finish; split <;> rfl
@[simp] theorem finish_port (s : State) : (finish s).port = s.port := by unfold finish; split <;> rfl
@[simp] theorem finish_dc (s : State) : (finish s).dc = s.dc := by unfold finish; split <;> rfl
@[simp] theorem finish_dm (s : State) : (finish s).dm = s.dm := by unfold finish; split <;> rfl
@[simp] theorem finish_phase (s : State) : (finish s).phase = s.phase := by unfold finish; split <;> rfl
@[simp] theorem finish_data (s : State) : (finish s).data = s.data := by unfold finish; split <;> rfl
@[simp] theorem finish_e (s : State) : (finish s).e = s.e := by unfold finish; split <;> rfl
@[simp] theorem finish_rs (s : State) : (finish s).rs = s.rs := by unfold finish; split <;> rfl
@[simp] theorem finish_dly (s : State) : (finish s).dly = s.dly := by unfold finish; split <;> rfl
@[simp] theorem finish_resetLine (s : State) : (finish s).resetLine = s.resetLine := by unfold finish; split <;> rfl
@[simp] theorem finish_grain (s : State) : (finish s).grain = s.grain := by unfold finish; split <;> rfl

end Sys2Proof.Machine
end

