-- ==== Sys2Proof/Tests/Slice0.lean ====
section
/-! SUPPORT. Tests. Expected results are those of spec 95_test_vectors (the ids in the comments: S, V, P) or of the encoding
tables of 30_encoding; and a witness for each statement that has hypotheses. -/

namespace Sys2Proof.Tests

open Sys2Proof Sys2Proof.Machine Sys2Proof.Safety Sys2Proof.Claims

/-! ### Helpers -/

/-- A state of the idle block after INIT, with the masks `dc` and `dm`. -/
def ready (dc dm : Byte) : State := { State.reset with dc := dc, dm := dm, phase := .ready }

/-- The bytes a request transmits. -/
def sent (i : Instr) (s : State) : List (Bool × Byte) :=
  match exec i s with
  | .next t => bytes t.trace
  | .fault _ | .refused _ => []

/-- The masks, the phase and the RS line after a request. -/
def after (i : Instr) (s : State) : Option (Byte × Byte × Phase × Bool) :=
  match exec i s with
  | .next t => some (t.dc, t.dm, t.phase, t.rs)
  | .fault _ | .refused _ => none

/-- The text a WRITE_FLOAT of the eight payload bytes stands for. -/
def floatText (p : List Byte) : Option (List Byte) :=
  match decodeRequest 0x14000008 p with
  | .ok (.writeFloat x) => fmtFloat x
  | _ => none

/-- An idle block at the item grain, offered `o`. -/
def itemwise (o : Offer) : State := { ready 0x04 0x00 with grain := .item, port := [o] }

/-- A block in the middle of a request: the first of three items is next. -/
def working : State :=
  { ready 0x04 0x00 with busy := true, prog := [.setDC 0x06, .micro (.d 0), .micro (.w 2)], port := [.command 0x01] }

/-- The same block in the last microsecond of its last wait. -/
def ending : State :=
  { ready 0x06 0x00 with busy := true, upc := 3, dly := 1, prog := [.setDC 0x06, .micro (.d 0), .micro (.w 2)] }

/-! ### WellFormed refuses ill-formed terms -/

theorem test_string_of_255_is_wellFormed : WellFormed (.writeString (List.replicate 255 0x41)) := by decide +kernel
theorem test_string_of_256_is_illFormed : ¬ WellFormed (.writeString (List.replicate 256 0x41)) := by decide +kernel
theorem test_offer_without_its_payload_is_illFormed : Offer.wf (.request 0x12000002 [0x48]) = false := by decide
theorem test_offer_with_its_payload_is_wellFormed : Offer.wf (.request 0x12000002 [0x48, 0x69]) = true := by decide
theorem test_malformed_offer_is_refused_by_name :
    step { State.reset with port := [.request 0x12000002 [0x48]] } = .refused .malformedOffer := rfl

/-! ### Decoding: a word of each row, written out from R52, R62, R64 -/

theorem test_decode_init : decodeTableWord 32 0b00000001_00000000_00000000_00000000 = some .init := by decide
theorem test_decode_sendCmd : decodeTableWord 32 0b00000010_00101000_00000000_00000000 = some (.sendCmd 0x28) := by decide
theorem test_decode_sendData : decodeTableWord 32 0b00000011_01000001_00000000_00000000 = some (.sendData 0x41) := by decide
theorem test_decode_clear : decodeTableWord 32 0b00000100_00000000_00000000_00000000 = some .clear := by decide
theorem test_decode_home : decodeTableWord 32 0b00000101_00000000_00000000_00000000 = some .home := by decide
theorem test_decode_setCursor :
    decodeTableWord 32 0b00000110_00000011_00000001_00000000 = some (.setCursor 3 1) := by decide
theorem test_decode_displayOn : decodeTableWord 32 0b00000111_00000000_00000000_00000000 = some .displayOn := by decide
theorem test_decode_displayOff : decodeTableWord 32 0b00001000_00000000_00000000_00000000 = some .displayOff := by decide
/-- V-P19: unused fields are ignored. -/
theorem test_decode_cursorOn : decodeTableWord 32 0b00001001_10101010_01010101_00000000 = some .cursorOn := by decide
theorem test_decode_cursorOff : decodeTableWord 32 0b00001010_00000000_00000000_00000000 = some .cursorOff := by decide
theorem test_decode_blinkOn : decodeTableWord 32 0b00001011_00000000_00000000_00000000 = some .blinkOn := by decide
theorem test_decode_blinkOff : decodeTableWord 32 0b00001100_00000000_00000000_00000000 = some .blinkOff := by decide
theorem test_decode_leftToRight : decodeTableWord 32 0b00001101_00000000_00000000_00000000 = some .leftToRight := by decide
theorem test_decode_rightToLeft : decodeTableWord 32 0b00001110_00000000_00000000_00000000 = some .rightToLeft := by decide
theorem test_decode_scrollLeft : decodeTableWord 32 0b00001111_00000000_00000000_00000000 = some .scrollLeft := by decide
theorem test_decode_scrollRight : decodeTableWord 32 0b00010000_00000000_00000000_00000000 = some .scrollRight := by decide
/-- P3, step 1. -/
theorem test_decode_createGlyph :
    decodeRequest 0b00010001_00001001_00000000_00001000 [0x00, 0x0A, 0x1F, 0x1F, 0x0E, 0x04, 0x00, 0x00] =
      .ok (.createGlyph 9 #v[0x00, 0x0A, 0x1F, 0x1F, 0x0E, 0x04, 0x00, 0x00]) := by decide
theorem test_decode_writeString :
    decodeRequest 0b00010010_00000000_00000000_00000010 [0x48, 0x69] = .ok (.writeString [0x48, 0x69]) := by decide
/-- V-T9: -42. -/
theorem test_decode_writeInt :
    decodeRequest 0b00010011_00000000_00000000_00000100 [0xD6, 0xFF, 0xFF, 0xFF] = .ok (.writeInt (-42)) := by decide
/-- V-F1: 3.5. -/
theorem test_decode_writeFloat :
    decodeRequest 0b00010100_00000000_00000000_00001000 [0, 0, 0, 0, 0, 0, 0x0C, 0x40] =
      .ok (.writeFloat 0x400C000000000000) := by decide
theorem test_decode_lcdClear : decodeTableWord 8 0b00000001 = some .lcdClear := by decide
theorem test_decode_lcdHome : decodeTableWord 8 0b00000011 = some (.lcdHome true) := by decide
theorem test_decode_lcdEntryMode : decodeTableWord 8 0b00000110 = some (.lcdEntryMode true false) := by decide
theorem test_decode_lcdDisplayCtrl : decodeTableWord 8 0b00001110 = some (.lcdDisplayCtrl true true false) := by decide
theorem test_decode_lcdShift : decodeTableWord 8 0b00011101 = some (.lcdShift true true 1) := by decide
theorem test_decode_lcdFunction : decodeTableWord 8 0b00101010 = some (.lcdFunction false true false 2) := by decide
theorem test_decode_lcdSetCgram : decodeTableWord 8 0b01101000 = some (.lcdSetCgram 0b101000) := by decide
theorem test_decode_lcdSetDdram : decodeTableWord 8 0b11000011 = some (.lcdSetDdram 0b1000011) := by decide
/-- V-X1 to V-X5 (R66). -/
theorem test_decode_illegal :
    decodeRequest 0x00000000 [] = .error .unassignedOp ∧ decodeRequest 0x15000000 [] = .error .unassignedOp ∧
    decodeRequest 0xFF123400 [] = .error .unassignedOp ∧ decodeRequest 0x01000001 [0x00] = .error .wrongCount ∧
    decodeRequest 0x13000003 [1, 2, 3] = .error .wrongCount := by decide
theorem test_default_parameters_meet_their_constraints : params.wf := by decide
/-- R6, R33: every row has a base; the slot map with the layout constants is `(slot & 0x7) << 3`. -/
theorem test_layout_constants :
    Config.rowBases.length = Config.rows ∧ ∀ slot : Byte, glyphAddress slot = ((slot &&& 0x7).setWidth 6) <<< 3 := by
  decide +kernel
theorem test_phase_codes : [Phase.unpowered, .priming, .fourBitSelected, .functionConfigured, .displayEnabled,
    .homePositioned, .cleared, .ready].map Phase.code = [0, 1, 2, 3, 4, 5, 6, 7] := by decide

/-! ### The words the host places run as the next step -/

theorem test_step_runs_placed_request :
    step (State.reset.withFetchWord 32 0x07000000) = exec .displayOn State.reset := rfl
theorem test_step_runs_placed_command :
    step (State.reset.withFetchWord 8 0xC3) = exec (.lcdSetDdram 0x43) State.reset := rfl
/-- The zero payload the header counts is supplied. -/
theorem test_step_runs_placed_payload :
    step (State.reset.withFetchWord 32 0x13000004) = exec (.writeInt 0) State.reset := rfl

/-! ### Transfers and commands -/

/-- V-A2, V-A3: the low four bits of the argument are ignored. -/
theorem test_nibble : nibble params 0x3F false =
    [.d 3, .rs false, .e false, .w 1, .e true, .w 1, .e false, .d 0, .w 1000] := by decide
/-- V-C5: 0x04 is not below the threshold. -/
theorem test_sendCmd_short : exec (.sendCmd 0x04) (ready 0x07 2) =
    .next { ready 0x07 2 with trace := N params 0 false ++ N params 4 false ++ [.w 37] } := rfl
/-- V-C4, V-C8: 0x03 is long; a raw command changes no mask. -/
theorem test_sendCmd_long_keeps_masks :
    (sendCommand params 0x03).getLast? = some (.w 1520) ∧ after (.sendCmd 0x0F) (ready 0x04 0) = some (0x04, 0, .ready, false) := by
  decide
/-- V-D1. -/
theorem test_sendData : exec (.sendData 0x41) State.reset =
    .next { State.reset with rs := true, trace := N params 4 true ++ N params 1 true } := rfl
/-- The raw byte 0x00 has no class and is sent, with the long wait (R67, V-C1). -/
theorem test_raw_zero_byte : step { State.reset with port := [.command 0x00] } =
    .next { State.reset with trace := N params 0 false ++ N params 0 false ++ [.w 1520] } := rfl
theorem test_lcdClear : sent .lcdClear State.reset = [(false, 0x01)] := by decide
theorem test_lcdHome : sent (.lcdHome true) State.reset = [(false, 0x03)] := by decide
theorem test_lcdEntryMode : sent (.lcdEntryMode true false) State.reset = [(false, 0x06)] := by decide
theorem test_lcdDisplayCtrl :
    sent (.lcdDisplayCtrl true false true) State.reset = [(false, 0x0D)] ∧
    after (.lcdDisplayCtrl true false true) (ready 0x04 0) = some (0x04, 0, .ready, false) := by decide
theorem test_lcdShift : sent (.lcdShift true false 0) State.reset = [(false, 0x18)] := by decide
theorem test_lcdFunction : sent (.lcdFunction false true false 0) State.reset = [(false, 0x28)] := by decide
theorem test_lcdSetCgram : sent (.lcdSetCgram 0x08) State.reset = [(false, 0x48)] := by decide
theorem test_lcdSetDdram : sent (.lcdSetDdram 0x4F) State.reset = [(false, 0xCF)] := by decide

/-! ### INIT (V-I2, and the waits of P1) -/

theorem test_init_repeated : after .init (ready 0x07 0x02) = some (0x04, 0x02, .ready, false) := by decide +kernel
theorem test_init_pulses : latched (emitted (initItems params 0x00)) =
    [(false, 3), (false, 3), (false, 3), (false, 2), (false, 2), (false, 8), (false, 0), (false, 0xC), (false, 0),
     (false, 2), (false, 0), (false, 1), (false, 0), (false, 0xC), (false, 0), (false, 0xC)] := by decide

/-! ### Presentation -/

/-- S5 and P1: the long wait. -/
theorem test_clear : exec .clear (ready 0x06 0x02) =
    .next { ready 0x06 0x02 with trace := N params 0 false ++ N params 1 false ++ [.w 1520] } := rfl
theorem test_home : exec .home (ready 0x06 0x02) =
    .next { ready 0x06 0x02 with trace := N params 0 false ++ N params 2 false ++ [.w 1520] } := rfl
/-- V-P10, V-P8. -/
theorem test_setCursor_in_range : sent (.setCursor 15 1) State.reset = [(false, 0xCF)] ∧
    sent (.setCursor 15 0) State.reset = [(false, 0x8F)] := by decide
/-- V-P12, V-P15: the column is tested first. -/
theorem test_setCursor_out_of_range : exec (.setCursor 16 2) (ready 4 0) = .next (ready 4 0) ∧
    exec (.setCursor 15 255) (ready 4 0) = .refused .rowOutOfRange := ⟨rfl, rfl⟩
/-- The toggle truth table of 95_test_vectors, column by column, from `DC = 0x00` to `0x07`. -/
theorem test_displayOn : (List.range 8).map (fun n => sent .displayOn (ready (BitVec.ofNat 8 n) 0)) =
    [0x0C, 0x0D, 0x0E, 0x0F, 0x0C, 0x0D, 0x0E, 0x0F].map (fun v => [(false, v)]) := by decide
theorem test_displayOff : (List.range 8).map (fun n => sent .displayOff (ready (BitVec.ofNat 8 n) 0)) =
    [0x08, 0x09, 0x0A, 0x0B, 0x08, 0x09, 0x0A, 0x0B].map (fun v => [(false, v)]) := by decide
theorem test_cursorOn : (List.range 8).map (fun n => sent .cursorOn (ready (BitVec.ofNat 8 n) 0)) =
    [0x0A, 0x0B, 0x0A, 0x0B, 0x0E, 0x0F, 0x0E, 0x0F].map (fun v => [(false, v)]) := by decide
theorem test_cursorOff : (List.range 8).map (fun n => sent .cursorOff (ready (BitVec.ofNat 8 n) 0)) =
    [0x08, 0x09, 0x08, 0x09, 0x0C, 0x0D, 0x0C, 0x0D].map (fun v => [(false, v)]) := by decide
theorem test_blinkOn : (List.range 8).map (fun n => sent .blinkOn (ready (BitVec.ofNat 8 n) 0)) =
    [0x09, 0x09, 0x0B, 0x0B, 0x0D, 0x0D, 0x0F, 0x0F].map (fun v => [(false, v)]) := by decide
theorem test_blinkOff : (List.range 8).map (fun n => sent .blinkOff (ready (BitVec.ofNat 8 n) 0)) =
    [0x08, 0x08, 0x0A, 0x0A, 0x0C, 0x0C, 0x0E, 0x0E].map (fun v => [(false, v)]) := by decide
/-- V-P1 to V-P4. -/
theorem test_leftToRight : after .leftToRight (ready 7 0x00) = some (7, 0x02, .ready, false) ∧
    sent .leftToRight (ready 7 0x02) = [(false, 0x06)] := by decide
theorem test_rightToLeft : after .rightToLeft (ready 7 0x02) = some (7, 0x00, .ready, false) ∧
    sent .rightToLeft (ready 7 0x00) = [(false, 0x04)] := by decide
/-- V-P16, V-P17. -/
theorem test_scrollLeft : sent .scrollLeft State.reset = [(false, 0x18)] := by decide
theorem test_scrollRight : sent .scrollRight State.reset = [(false, 0x1C)] := by decide

/-! ### Glyph and text -/

/-- P3, step 1; V-G5. -/
theorem test_createGlyph : sent (.createGlyph 9 #v[0x00, 0x0A, 0x1F, 0x1F, 0x0E, 0x04, 0x00, 0x00]) State.reset =
    [(false, 0x48), (true, 0x00), (true, 0x0A), (true, 0x1F), (true, 0x1F), (true, 0x0E), (true, 0x04), (true, 0x00),
     (true, 0x00)] := by decide +kernel
theorem test_createGlyph_slot : setCgramCmd (glyphAddress 255) = 0x78 ∧ setCgramCmd (glyphAddress 8) = 0x40 := by decide
/-- V-T3, V-T1. -/
theorem test_writeString : sent (.writeString [0x48, 0x69]) State.reset = [(true, 0x48), (true, 0x69)] := by decide
theorem test_writeString_empty : exec (.writeString []) (ready 4 0) = .next (ready 4 0) := rfl
/-- V-T11. -/
theorem test_writeInt : sent (.writeInt 0x80000000) State.reset =
    [0x2D, 0x32, 0x31, 0x34, 0x37, 0x34, 0x38, 0x33, 0x36, 0x34, 0x38].map (fun v => (true, v)) := by decide +kernel
/-- V-T6. -/
theorem test_writeInt_zero : sent (.writeInt 0) State.reset = [(true, 0x30)] := by decide
/-- V-F2, V-F4, V-F5, V-F6, V-F8. -/
theorem test_floatText :
    floatText [0, 0, 0, 0, 0, 0, 0xD0, 0xBF] = some [0x2D, 0x30, 0x2E, 0x32, 0x35, 0x30, 0x30, 0x30, 0x30] ∧
    floatText [0, 0, 0, 0, 0, 0, 0, 0x80] = some [0x2D, 0x30, 0x2E, 0x30, 0x30, 0x30, 0x30, 0x30, 0x30] ∧
    floatText [0, 0, 0, 0, 0, 0, 0x80, 0x3F] = some [0x30, 0x2E, 0x30, 0x30, 0x37, 0x38, 0x31, 0x32] ∧
    floatText [0, 0, 0, 0, 0, 0, 0x98, 0x3F] = some [0x30, 0x2E, 0x30, 0x32, 0x33, 0x34, 0x33, 0x38] ∧
    floatText [0xF5, 0x85, 0x90, 0xF3, 0xFE, 0xFF, 0xEF, 0x3F] =
      some [0x31, 0x2E, 0x30, 0x30, 0x30, 0x30, 0x30, 0x30] := by decide +kernel
/-- V-F11 to V-F15. -/
theorem test_floatText_bounds :
    (floatText [0xB4, 0x9D, 0xD9, 0x79, 0x43, 0x78, 0xEA, 0x44]).map List.length = some 31 ∧
    (floatText [0xB5, 0x9D, 0xD9, 0x79, 0x43, 0x78, 0xEA, 0x44]).map List.length = some 32 ∧
    (floatText [0xF6, 0x4A, 0xE1, 0xC7, 0x02, 0x2D, 0xB5, 0xC4]).map List.length = some 31 ∧
    (floatText [0xF7, 0x4A, 0xE1, 0xC7, 0x02, 0x2D, 0xB5, 0xC4]).map List.length = some 32 ∧
    floatText [0, 0, 0, 0, 0, 0, 0xF0, 0x7F] = none ∧ floatText [0, 0, 0, 0, 0, 0, 0xF8, 0x7F] = none := by decide +kernel
/-- V-F1, V-F12. -/
theorem test_writeFloat : sent (.writeFloat 0x400C000000000000) State.reset =
    [0x33, 0x2E, 0x35, 0x30, 0x30, 0x30, 0x30, 0x30].map (fun v => (true, v)) ∧
    exec (.writeFloat 0x44EA784379D99DB5) State.reset = .refused .floatTextTooLong := ⟨by decide +kernel, rfl⟩

/-! ### A witness for each statement that has hypotheses, and for each of its clauses -/

/-- EveryStepKeepsInvariant. -/
theorem witness_EveryStepKeepsInvariant : BlockInv working ∧ step working = .next (seqStep working) :=
  ⟨⟨by decide, by simp [remaining, working, ready, State.reset], by decide, by decide, by decide⟩, rfl⟩
/-- IdleBlockHasQuietLines: the last microsecond of a request. -/
theorem witness_IdleBlockHasQuietLines :
    BlockInv ending ∧ step ending = .next (seqStep ending) ∧ (seqStep ending).busy = false :=
  ⟨⟨by decide, by simp [remaining, ending, ready], by decide, by decide, by decide⟩, rfl, rfl⟩
/-- ResetWinsAndEmitsNothing: in the middle of a request (R194). -/
theorem witness_ResetWinsAndEmitsNothing : ({ working with resetLine := true } : State).resetLine = true := rfl
/-- DecodeOfEncodeIsIdentity: the longest string. -/
theorem witness_DecodeOfEncodeIsIdentity : WellFormed (.writeString (List.replicate 255 0xFF)) := by decide +kernel
/-- RequestIsOperationOfMatchingRow: both clauses, at a row with a payload. -/
theorem witness_RequestIsOperationOfMatchingRow :
    ([0, 0, 0, 0, 0, 0, 0, 0] : List Byte).length = ((0x14000008 : Word).extractLsb' 0 8).toNat ∧
    decodeRequest 0x14000008 [0, 0, 0, 0, 0, 0, 0, 0] = .ok (.writeFloat 0) ∧
    requestRow (.writeFloat 1) = some (0x14000008, 0xFF0000FF) ∧ (0x14000008 : Word) &&& 0xFF0000FF = 0x14000008 := by
  decide
/-- UnusedHeaderFieldsAreIgnored: an operation without operands meets both conditions. -/
theorem witness_UnusedHeaderFieldsAreIgnored :
    (0x09 : Byte) ≠ 0x06 ∧ (0x09 : Byte) ≠ 0x02 ∧ (0x09 : Byte) ≠ 0x03 ∧ (0x09 : Byte) ≠ 0x11 := by decide
/-- LcdClassIsTopSetBit: the two ends of the classes. -/
theorem witness_LcdClassIsTopSetBit : (0x01 : Byte) ≠ 0 ∧ (0xFF : Byte) ≠ 0 := by decide
/-- StepRunsDecodedInstruction, the first clause at both grains. -/
theorem witness_StepRunsDecodedInstruction :
    (itemwise (.command 0x01)).resetLine = false ∧ (itemwise (.command 0x01)).busy = false ∧
    (itemwise (.command 0x01)).port = [.command 0x01] ∧ decodeOffer (.command 0x01) = .ok .lcdClear ∧
    (itemwise (.command 0x01)).grain = .item ∧
    ({ itemwise (.command 0x01) with grain := .request } : State).grain = .request := by decide
/-- StepRunsDecodedInstruction, the second clause at both formats. -/
theorem witness_StepRunsDecodedInstruction_word :
    decodeTableWord 32 0x14000008 = some (.writeFloat 0) ∧ decodeTableWord 8 0x80 = some (.lcdSetDdram 0) := by decide
/-- IllegalRequestIsCompleteNoOp: an unassigned `op` (V-X2). -/
theorem witness_IllegalRequestIsCompleteNoOp :
    (itemwise (.request 0x15000000 [])).resetLine = false ∧ (itemwise (.request 0x15000000 [])).busy = false ∧
    ([] : List Byte).length = ((0x15000000 : Word).extractLsb' 0 8).toNat ∧
    ∀ j m k, requestRow j = some (m, k) → (0x15000000 : Word) &&& k ≠ m := by
  refine ⟨rfl, rfl, rfl, fun j m k h => ?_⟩
  cases j <;> simp only [requestRow, Option.some.injEq, Prod.mk.injEq, reduceCtorEq] at h <;>
    (obtain ⟨rfl, rfl⟩ := h; decide)
/-- IllegalRequestIsCompleteNoOp: a wrong `n` (V-X4). -/
theorem witness_IllegalRequestIsCompleteNoOp_count :
    ([0] : List Byte).length = ((0x01000001 : Word).extractLsb' 0 8).toNat ∧
    ∀ j m k, requestRow j = some (m, k) → (0x01000001 : Word) &&& k ≠ m := by
  refine ⟨rfl, fun j m k h => ?_⟩
  cases j <;> simp only [requestRow, Option.some.injEq, Prod.mk.injEq, reduceCtorEq] at h <;>
    (obtain ⟨rfl, rfl⟩ := h; decide)
/-- BusyBlockHoldsOffersOff: with an offer at the port. -/
theorem witness_BusyBlockHoldsOffersOff :
    working.resetLine = false ∧ working.busy = true ∧ working.port = [.command 0x01] := by decide
/-- IdleBlockWaitsForRequest. -/
theorem witness_IdleBlockWaitsForRequest :
    State.reset.resetLine = false ∧ State.reset.busy = false ∧ State.reset.port = [] := by decide
/-- SequencerPositionNeverSkips: an item is next, and a wait is running. -/
theorem witness_SequencerPositionNeverSkips :
    (working.resetLine = false ∧ working.busy = true ∧ working.upc < working.prog.length ∧ working.dly = 0) ∧
    (ending.resetLine = false ∧ ending.busy = true ∧ ending.dly ≠ 0) := by decide
/-- SequencerPositionNeverSkips, its four ends: the last microsecond of the last wait; a wait of two; a last item without a
wait; a last item with one. -/
theorem witness_SequencerPositionNeverSkips_ends :
    (ending.dly = 1 ∧ ending.prog.length ≤ ending.upc ∧ Ended (seqStep ending)) ∧
    (({ ending with dly := 2 } : State).dly ≠ 1 ∧
      GoesOn ending (seqStep { ending with dly := 2 }) 3) ∧
    (loadedWait (.micro (.d 0)) = 0 ∧ Ended (seqStep { working with prog := [.micro (.d 0)] })) ∧
    (loadedWait (.micro (.w 2)) ≠ 0 ∧
      GoesOn working (seqStep { working with upc := 2 }) 3 ∧ (seqStep { working with upc := 2 }).dly = 2) := by
  refine ⟨⟨rfl, ?_, rfl, rfl, rfl⟩, ⟨?_, rfl, rfl, rfl⟩, ⟨rfl, rfl, rfl, rfl⟩, ?_, ⟨rfl, rfl, rfl⟩, rfl⟩ <;> decide
/-- TraceOnlyGrows. -/
theorem witness_TraceOnlyGrows : step ending = .next (seqStep ending) := rfl
/-- BusyBlockRunsToCompletion: three items, of which the last waits 2 µs, take five steps. -/
theorem witness_BusyBlockRunsToCompletion :
    working.resetLine = false ∧ working.busy = true ∧ (working.upc < working.prog.length ∨ working.dly ≠ 0) ∧
    working.dly.toNat + stepsOf (remaining working) = 5 := by decide
/-- ItemByItemEqualsWholeRequest: a toggle, from the idle block at the item grain. -/
theorem witness_ItemByItemEqualsWholeRequest :
    Idle (itemwise (.request 0x09000000 [])) ∧ (itemwise (.request 0x09000000 [])).grain = .item ∧
    decodeOffer (.request 0x09000000 []) = .ok .cursorOn ∧
    program params .cursorOn 0x04 0x00 = .ok (.setDC 0x06 :: emits (sendCommand params 0x0E)) ∧
    ∃ t, exec .cursorOn { itemwise (.request 0x09000000 []) with port := [] } = .next t :=
  ⟨by simp [Idle, itemwise, ready, State.reset], rfl, by decide, rfl, _, rfl⟩
/-- SetCursorTestsColumnThenRow, CursorAddressIsPositionMap, TestsComeInTheSpecsOrder: where the clauses meet. -/
theorem witness_SetCursorTestsColumnThenRow :
    16 ≤ (16 : Byte).toNat ∧ (15 : Byte).toNat < 16 ∧ (2 : Byte) ≠ 0 ∧ (2 : Byte) ≠ 1 := by decide
/-- CursorAddressIsPositionMap: the last column, a row that has no address, the least raw address command. -/
theorem witness_CursorAddressIsPositionMap :
    (15 : Byte).toNat < 16 ∧ cursorAddress 15 1 = some 0x4F ∧ cursorAddress 15 2 = none ∧ 0x80 ≤ (0x80 : Byte).toNat := by
  decide
/-- LatencyClassIsNumericComparison: on both sides of the threshold. -/
theorem witness_LatencyClassIsNumericComparison : latency params 0x03 = .long ∧ latency params 0x04 = .short := by decide
/-- PresentationLawsHold: a command, the no-op at the first column out of range, a toggle of each mask. -/
theorem witness_PresentationLawsHold :
    (sendsRaw .clear = false ∧ sendsData .clear = false ∧ Instr.clear ≠ .init ∧
      program params .clear 0 0 = .ok (emits (sendCommand params 0x01)) ∧ program params (.setCursor 16 0) 0 0 = .ok [] ∧
      cursorNoOp (.setCursor 16 0) = true ∧ cursorNoOp (.setCursor 15 0) = false) ∧
    (writesDC .blinkOff = true ∧ Instr.blinkOff ≠ .init ∧ ∃ t, exec .blinkOff (ready 5 2) = .next t) ∧
    (writesDM .leftToRight = true ∧ ∃ t, exec .leftToRight (ready 5 0) = .next t) ∧
    (writesDC .scrollLeft = false ∧ writesDM .scrollLeft = false ∧ ∃ t, exec .scrollLeft (ready 5 2) = .next t) :=
  ⟨⟨rfl, rfl, by decide, rfl, rfl, by decide, by decide⟩, ⟨rfl, by decide, _, rfl⟩, ⟨rfl, _, rfl⟩, rfl, rfl, _, rfl⟩
/-- R124 (c): two equal toggles in a row emit two equal commands. -/
theorem test_equal_toggles : (match andThen (exec .cursorOn (ready 4 0)) (exec .cursorOn) with
    | .next t => bytes t.trace
    | .fault _ | .refused _ => []) = [(false, 0x0E), (false, 0x0E)] := by decide
/-- InitRunsWholeSequence, InitTransmitsFourNibblesThenSixCommands: the largest legal mask. -/
theorem witness_InitTransmitsFourNibblesThenSixCommands : (0x07 : Byte).toNat ≤ 7 := by decide
/-- WriteStringSendsEveryByte: the longest string a request carries. -/
theorem witness_WriteStringSendsEveryByte : (List.replicate 255 (0x41 : Byte)).length ≤ 255 := by decide +kernel
/-- DecimalTextStandsForNumber: zero, the least and the greatest operand. -/
theorem witness_DecimalTextStandsForNumber :
    (1 : Nat) ≠ 0 ∧ (0 : Int) ≤ 0 ∧ (0x80000000 : BitVec 32).toInt < 0 ∧ 0 ≤ (0x7FFFFFFF : BitVec 32).toInt := by decide
/-- WriteFloatSendsTextOrIsRefused: a text of 31 bytes, one of 32 and none (V-F11, V-F12, V-F15). -/
theorem witness_WriteFloatSendsTextOrIsRefused :
    (∃ t, params.fmtFloat 0x44EA784379D99DB4 = some t ∧ t.length ≤ 31) ∧
    (∃ t, params.fmtFloat 0x44EA784379D99DB5 = some t ∧ 31 < t.length) ∧ params.fmtFloat 0x7FF0000000000000 = none :=
  ⟨⟨_, rfl, by decide +kernel⟩, ⟨_, rfl, by decide +kernel⟩, by decide +kernel⟩
/-- FloatTextIsRoundedToSixPlaces: an infinity, and 1/128, which is a tie. -/
theorem witness_FloatTextIsRoundedToSixPlaces :
    ((0x7FF0000000000000 : BitVec 64).extractLsb' 52 11).toNat = 2047 ∧
    ((0x3F80000000000000 : BitVec 64).extractLsb' 52 11).toNat ≠ 2047 := by decide
/-- FloatTextOverflowsExactlyFromBounds: a text on each side of the bound, for both signs. -/
theorem witness_FloatTextOverflowsExactlyFromBounds :
    (fmtFloat 0x44EA784379D99DB4).isSome ∧ (fmtFloat 0x44EA784379D99DB5).isSome ∧
    (fmtFloat 0xC4B52D02C7E14AF6).isSome ∧ (fmtFloat 0xC4B52D02C7E14AF7).isSome := by decide +kernel
/-- ExpansionsAgreeWithRequestsOneByOne: the last column in range, the first out of it, a float with a text of 31 bytes
(V-F11). -/
theorem witness_ExpansionsAgreeWithRequestsOneByOne :
    (15 : Byte).toNat < 16 ∧ 16 ≤ (16 : Byte).toNat ∧
    ∃ t, params.fmtFloat 0x44EA784379D99DB4 = some t ∧ t.length ≤ 31 :=
  ⟨by decide, by decide, _, rfl, by decide +kernel⟩
/-- TestsComeInTheSpecsOrder: a SET_CURSOR with a payload byte, and one with a bad column and a bad row. -/
theorem witness_TestsComeInTheSpecsOrder :
    (1 : Byte) ≠ 0 ∧ ([0] : List Byte).length = (1 : Byte).toNat ∧
    (itemwise (.request (header 0x06 16 9 1) [0])).resetLine = false ∧
    (itemwise (.request (header 0x06 16 9 1) [0])).busy = false ∧ 16 ≤ (255 : Byte).toNat ∧ (7 : Byte) ≠ 0 ∧
    (7 : Byte) ≠ 1 := by decide
/-- OperationsWriteOnlyTheirRegisters, NoOperationReadsLines: an operation of each kind completes. -/
theorem witness_OperationsWriteOnlyTheirRegisters :
    (∃ t, exec .init (ready 7 2) = .next t) ∧ (∃ t, exec .displayOff (ready 7 2) = .next t) ∧
    (∃ t, exec .cursorOff (ready 7 2) = .next t) ∧ (∃ t, exec .blinkOff (ready 7 2) = .next t) ∧
    (∃ t, exec .rightToLeft (ready 7 2) = .next t) ∧ (∃ t, exec (.sendCmd 0x0F) (ready 7 2) = .next t) ∧
    writesDC (.sendCmd 0x0F) = false ∧ writesDM (.sendCmd 0x0F) = false :=
  ⟨⟨_, rfl⟩, ⟨_, rfl⟩, ⟨_, rfl⟩, ⟨_, rfl⟩, ⟨_, rfl⟩, ⟨_, rfl⟩, rfl, rfl⟩
/-- NoOperationReadsLines: an operation that emits something. -/
theorem witness_NoOperationReadsLines : ∃ t, exec (.sendData 0x41) State.reset = .next t ∧ t.trace ≠ State.reset.trace :=
  ⟨_, rfl, by decide⟩
/-- OwnCommandsAreTheClosedList, EveryTraceIsWellTimed, RequestedTimesMatchTable: the least and the greatest legal masks. -/
theorem witness_OwnCommandsAreTheClosedList :
    (0 : Byte).toNat ≤ 7 ∧ (7 : Byte).toNat ≤ 7 ∧ sendsRaw .init = false ∧
    program params .init 7 2 = .ok (initItems params 7) ∧ program params .scrollLeft 0 0 = .ok (emits (sendCommand params 0x18)) :=
  ⟨by decide, by decide, rfl, rfl, rfl⟩
/-- RequestedTimesMatchTable: a float that has a program. -/
theorem witness_RequestedTimesMatchTable : ∃ l, program params (.writeFloat 0x400C000000000000) 0 2 = .ok l := ⟨_, rfl⟩
/-- OneLatchedEntryPerPulse: a whole command. -/
theorem witness_OneLatchedEntryPerPulse : wellTimed params (sendCommand params 0x01) = true := by decide
/-- AdapterLeavesOtherPortBits: the last bit of a port, and a port that holds none of the lines. -/
theorem witness_AdapterLeavesOtherPortBits :
    (7 : Nat) < 8 ∧ (3 : Nat) ≠ (PortLayout.mk 0 4 1 0 1 1).dataPort ∧ (3 : Nat) ≠ (PortLayout.mk 0 4 1 0 1 1).rsPort ∧
    (3 : Nat) ≠ (PortLayout.mk 0 4 1 0 1 1).ePort ∧
    [(0x5C : BitVec 8), 0xFF][(PortLayout.mk 0 4 1 0 1 1).dataPort]? = some 0x5C ∧
    [(0x5C : BitVec 8), 0xFF][(PortLayout.mk 0 4 1 0 1 1).rsPort]? = some 0xFF ∧
    [(0x5C : BitVec 8), 0xFF][(PortLayout.mk 0 4 1 0 1 1).ePort]? = some 0xFF := by decide
/-- The adapter on a port: the field at bit 4 is written, the other bits stand (R30). -/
theorem test_adapter : (MicroOp.d 0xA).onPorts (PortLayout.mk 0 4 1 0 1 1) [(0x5C : BitVec 8), 0xFF] = [0xAC, 0xFF] ∧
    (MicroOp.e false).onPorts (PortLayout.mk 0 4 1 0 1 1) [(0x5C : BitVec 8), 0xFF] = [0x5C, 0xFE] := by decide
/-- The parameters of a faster display, with a threshold of 3. -/
def fast : Params := { params with tPwr := 15000, tNibble := 50, longThreshold := 3 }
/-- EveryParameterChoiceKeepsInvariant: at other parameters, in the middle of a request. -/
theorem witness_EveryParameterChoiceKeepsInvariant : BlockInv working ∧ stepAt fast working = .next (seqStep working) :=
  ⟨witness_EveryStepKeepsInvariant.1, rfl⟩
/-- RequestedTimesFollowParameters: the least and the greatest threshold of its last clause. -/
theorem witness_RequestedTimesFollowParameters :
    2 < fast.longThreshold.toNat ∧ fast.longThreshold.toNat ≤ 8 ∧
    ({ fast with longThreshold := 8 } : Params).longThreshold.toNat ≤ 8 := by decide
/-- R6, R84: with a threshold of 3 the command 0x03 is short. -/
theorem test_execAt : execAt fast (.sendCmd 0x03) (ready 4 0) =
    .next { ready 4 0 with trace := N fast 0 false ++ N fast 3 false ++ [.w 37] } := rfl
/-- The observation port during a request (R24). -/
theorem test_observe : (seqStep working).observe = { dc := 0x06, dm := 0, phase := .ready, busy := true } := by decide

end Sys2Proof.Tests
end

section
/-! The obligations of the family 00_scope: the parametrized machine at the defaults, and the block's invariant at every
value of the parameters (spec 00_scope R6, 10_state R11 to R17). -/

namespace Sys2Proof.Proofs.Scope

open Sys2Proof Sys2Proof.Machine Sys2Proof.Safety

/-! ### The machine at the default parameters -/

theorem execAt_params (i : Instr) (s : State) : execAt params i s = exec i s := (exec_eq_complete i s).symm

theorem stepAt_params (s : State) : stepAt params s = step s := by
  have hrun : execAt params = exec := funext fun i => funext (execAt_params i)
  simp only [stepAt, step, hrun]

/-- Settles O56: a meaning is its program run whole, and a step differs only in the meanings it is given. -/
theorem parametrizedMachineAtDefaultsIsTheMachine : Obligations.ParametrizedMachineAtDefaultsIsTheMachine :=
  ⟨execAt_params, stepAt_params⟩

/-! ### Items that are safe to perform -/

/-- No item of the list writes an illegal value into a mask (R11, R12). -/
def AllLegal (l : List Item) : Prop := ∀ i ∈ l, Item.Legal i

/-- The items `l` are safe to perform from `s`: the masks are legal and stay so, and the lines end at rest. These are the
clauses of `BlockInv` that do not speak of the sequencer's place, of any list in place of the remaining items. -/
structure SafeFrom (l : List Item) (s : State) : Prop where
  masks : LegalMasks s.dc s.dm
  ahead : AllLegal l
  rest : Quiet (runItems l s)

theorem blockInv_iff {s : State} :
    BlockInv s ↔ SafeFrom (remaining s) s ∧ (s.busy = false → s.prog = [] ∧ s.upc = 0 ∧ s.dly = 0) ∧
      (s.busy = true → s.upc < s.prog.length ∨ s.dly ≠ 0) :=
  ⟨fun ⟨hm, ha, hr, hi, hw⟩ => ⟨⟨hm, ha, hr⟩, hi, hw⟩, fun ⟨⟨hm, ha, hr⟩, hi, hw⟩ => ⟨hm, ha, hr, hi, hw⟩⟩

theorem safeFrom_nil {s : State} : SafeFrom [] s ↔ LegalMasks s.dc s.dm ∧ Quiet s :=
  ⟨fun ⟨hm, _, hr⟩ => ⟨hm, hr⟩, fun ⟨hm, hr⟩ => ⟨hm, List.forall_mem_nil _, hr⟩⟩

/-- A legal item keeps the masks legal (R11, R12). -/
theorem legalMasks_apply {i : Item} {s : State} (hi : Item.Legal i) (hm : LegalMasks s.dc s.dm) :
    LegalMasks (i.apply s).dc (i.apply s).dm := by
  cases i with
  | micro m => simpa using hm
  | setDC v => exact ⟨hi, hm.2⟩
  | setDM v => exact ⟨hm.1, hi⟩
  | setPhase p => exact hm

/-- Performing the first item leaves the others safe. -/
theorem SafeFrom.apply_head {i : Item} {l : List Item} {s : State} (h : SafeFrom (i :: l) s) : SafeFrom l (i.apply s) where
  masks := legalMasks_apply (h.ahead i List.mem_cons_self) h.masks
  ahead j hj := h.ahead j (List.mem_cons_of_mem i hj)
  rest := h.rest

/-- Performing all of them leaves nothing to perform: the masks are legal and the lines at rest. -/
theorem SafeFrom.runItems {l : List Item} {s : State} (h : SafeFrom l s) : SafeFrom [] (runItems l s) := by
  induction l generalizing s with
  | nil => exact h
  | cons i l ih => exact ih h.apply_head

/-- The sequencer's place does not matter to what the items do. -/
theorem SafeFrom.withSequencer {l : List Item} {s : State} (h : SafeFrom l s) (b : Bool) (u : Nat) (p : List Item)
    (d : BitVec 16) : SafeFrom l (s.withSequencer b u p d) where
  masks := h.masks
  ahead := h.ahead
  rest := by rw [runItems_withSequencer]; exact h.rest

/-! ### Every item list is safe to perform from an idle block -/

theorem allLegal_append {l m : List Item} : AllLegal (l ++ m) ↔ AllLegal l ∧ AllLegal m := List.forall_mem_append

theorem allLegal_emits (l : List MicroOp) : AllLegal (emits l) := by simp [AllLegal, emits]

theorem allLegal_setPhase (p : Phase) : AllLegal [.setPhase p] := List.forall_mem_singleton.2 trivial

theorem allLegal_toggleDC (P : Params) {v : Byte} (hv : v.toNat ≤ 7) : AllLegal (toggleDC P v) :=
  List.forall_mem_cons.2 ⟨hv, allLegal_emits _⟩

theorem allLegal_toggleDM (P : Params) {v : Byte} (hv : v = 0x00 ∨ v = 0x02) : AllLegal (toggleDM P v) :=
  List.forall_mem_cons.2 ⟨hv, allLegal_emits _⟩

/-- INIT's three values of `DC` are legal when the one it starts from is (R11, R100). -/
theorem allLegal_initItems (P : Params) {dc : Byte} (h : dc.toNat ≤ 7) : AllLegal (initItems P dc) := by
  have h1 : (initDC1 dc).toNat ≤ 7 := (toggleDC_legal dc h).1
  obtain ⟨-, -, -, (h2 : (initDC2 dc).toNat ≤ 7), -⟩ := toggleDC_legal _ h1
  obtain ⟨-, -, -, -, -, (h3 : (initDC3 dc).toNat ≤ 7)⟩ := toggleDC_legal _ h2
  simp only [initItems, allLegal_append, allLegal_setPhase, allLegal_emits, allLegal_toggleDC P h1,
    allLegal_toggleDC P h2, allLegal_toggleDC P h3, and_self]

theorem allLegal_of_shape {P : Params} {dc dm : Byte} {l : List Item} (h : ProgramShape P dc dm l)
    (hm : LegalMasks dc dm) : AllLegal l := by
  cases h with
  | command v => exact allLegal_emits _
  | text p => exact allLegal_emits _
  | toggleDC v hv => exact allLegal_toggleDC P (hv hm.1)
  | toggleDM v hv => exact allLegal_toggleDM P (hv hm.2)
  | glyph v p => exact allLegal_emits _
  | init => exact allLegal_initItems P hm.1

theorem quiet_afterTransfer (s : State) (f : Bool) (l : List MicroOp) : Quiet (afterTransfer s f l) := ⟨rfl, rfl⟩

theorem quiet_runItems_sendText (P : Params) (p : List Byte) {s : State} (hq : Quiet s) :
    Quiet (runItems (emits (sendText P p)) s) := by
  rw [runItems_sendText]
  split
  · exact hq
  · exact quiet_afterTransfer ..

/-- A list ends with a transfer, and at most a wait and a phase after it, or it does nothing (R17). -/
theorem quiet_runItems_of_shape {P : Params} {dc dm : Byte} {l : List Item} (h : ProgramShape P dc dm l) {s : State}
    (hq : Quiet s) : Quiet (runItems l s) := by
  cases h with
  | command v => rw [runItems_sendCommand]; exact quiet_afterTransfer ..
  | text p => exact quiet_runItems_sendText P p hq
  | toggleDC v hv => rw [runItems_toggleDC]; exact quiet_afterTransfer ..
  | toggleDM v hv => rw [runItems_toggleDM]; exact quiet_afterTransfer ..
  | glyph v p =>
    rw [emits_append, runItems_append, runItems_sendCommand]
    exact quiet_runItems_sendText P p (quiet_afterTransfer ..)
  | init =>
    rw [initItems, runItems_append, runItems_append, runItems_toggleDC, runItems_cons, Item.apply_setPhase, runItems_nil]
    exact ⟨rfl, rfl⟩

theorem safeFrom_program {P : Params} {i : Instr} {s : State} {l : List Item} (h : program P i s.dc s.dm = .ok l)
    (hs : SafeFrom [] s) : SafeFrom l s :=
  have ⟨hm, hq⟩ := safeFrom_nil.1 hs
  have shape := program_shape h
  ⟨hm, allLegal_of_shape shape hm, quiet_runItems_of_shape shape hq⟩

/-! ### The invariant and the kinds of step -/

/-- The invariant of a block at rest (R15, assumption 5). -/
theorem blockInv_of_idle {s : State} (hb : s.busy = false) (hp : s.prog = []) (hu : s.upc = 0) (hd : s.dly = 0)
    (hs : SafeFrom [] s) : BlockInv s :=
  blockInv_iff.2 ⟨by simpa [remaining, hp] using hs, fun _ => ⟨hp, hu, hd⟩, by simp [hb]⟩

theorem safeFrom_nil_of_idle {s : State} (h : BlockInv s) (hb : s.busy = false) : SafeFrom [] s := by
  obtain ⟨hs, hidle, -⟩ := blockInv_iff.1 h
  obtain ⟨hp, -, -⟩ := hidle hb
  simpa [remaining, hp] using hs

theorem blockInv_takeReset (s : State) : BlockInv (takeReset s) :=
  blockInv_of_idle rfl rfl rfl rfl (safeFrom_nil.2 ⟨⟨Nat.zero_le 7, .inl rfl⟩, rfl, rfl⟩)

/-- `finish` ends the request exactly when no item and no wait is left (R15, R16). -/
theorem blockInv_finish {s : State} (hb : s.busy = true) (hs : SafeFrom (remaining s) s) : BlockInv (finish s) := by
  by_cases hdone : s.dly = 0 ∧ s.prog.length ≤ s.upc
  · obtain ⟨hd, hu⟩ := hdone
    rw [remaining, List.drop_eq_nil_of_le hu] at hs
    rw [finish_done hd hu]
    exact blockInv_of_idle rfl rfl rfl hd ⟨hs.masks, hs.ahead, hs.rest⟩
  · rw [finish, if_neg hdone]
    exact blockInv_iff.2 ⟨hs, by simp [hb], fun _ => (not_and_or.1 hdone).symm.imp_left Nat.lt_of_not_le⟩

/-- A busy sequencer counts a wait down or performs the next item: the remaining items stay safe (R16, R18). -/
theorem blockInv_seqStep {s : State} (h : BlockInv s) (hb : s.busy = true) : BlockInv (seqStep s) := by
  obtain ⟨hs, -, hworking⟩ := blockInv_iff.1 h
  by_cases hd : s.dly = 0
  · have hu : s.upc < s.prog.length := (hworking hb).resolve_right (absurd hd)
    rw [remaining, List.drop_eq_getElem_cons hu] at hs
    have hnext := hs.apply_head.withSequencer true (s.upc + 1) s.prog (s.prog[s.upc]).delay
    rw [seqStep_item hd hu]
    apply blockInv_finish
    · simpa using hb
    · simpa [remaining, State.withSequencer, hb] using hnext
  · rw [seqStep_wait hd]
    exact blockInv_finish hb (hs.withSequencer s.busy s.upc s.prog (s.dly - 1))

/-- An idle block takes an offer: nothing happens, the program is run whole, or its items all remain (R16, R66). -/
theorem blockInv_serve {P : Params} {run : Meaning} (hrun : ∀ i u, run i u = execAt P i u) {o : Offer} {s t : State}
    (h : BlockInv s) (hb : s.busy = false) (hst : serve P run o s = .next t) : BlockInv t := by
  obtain ⟨hp, hu, hd⟩ := h.idle hb
  have hs := safeFrom_nil_of_idle h hb
  obtain rfl | ⟨i, l, -, hl, ⟨-, rfl⟩ | ⟨-, j, m, rfl, rfl⟩⟩ := serve_cases hrun hst
  · exact h
  · exact blockInv_of_idle (by simpa) (by simpa) (by simpa) (by simpa) (safeFrom_program hl hs).runItems
  · exact blockInv_iff.2 ⟨(safeFrom_program hl hs).withSequencer true 0 (j :: m) 0, nofun, fun _ => .inl (by simp)⟩

/-- Every kind of step keeps the invariant, where the meanings run the programs of `P` whole. -/
theorem blockInv_stepWith {P : Params} {run : Meaning} (hrun : ∀ i u, run i u = execAt P i u) {s t : State}
    (h : BlockInv s) (hst : stepWith P run s = .next t) : BlockInv t := by
  obtain ⟨-, rfl⟩ | ⟨-, hb, rfl⟩ | ⟨-, -, -, rfl⟩ | ⟨-, hb, o, rest, -, hserve⟩ := stepWith_cases hst
  · exact blockInv_takeReset s
  · exact blockInv_seqStep h hb
  · exact h
  · obtain ⟨hp, hu, hd⟩ := h.idle hb
    have ⟨hm, hq⟩ := safeFrom_nil.1 (safeFrom_nil_of_idle h hb)
    have hport : BlockInv { s with port := rest } := blockInv_of_idle hb hp hu hd (safeFrom_nil.2 ⟨hm, hq⟩)
    exact blockInv_serve hrun hport hb hserve

/-- Settles O57, by the four kinds of step. -/
theorem everyParameterChoiceKeepsInvariant : Obligations.EveryParameterChoiceKeepsInvariant :=
  fun _ _ _ h hst => blockInv_stepWith (fun _ _ => rfl) h hst

end Sys2Proof.Proofs.Scope
end

section
/-! What an operation leaves, said once: all as it was, or its register writes, the lines at rest with `RS` at the tag
of its last transfer, and its trace (spec 10_state R16, R17, R23). The rules for INIT's own item list stand here too. -/

namespace Sys2Proof.Proofs.OperationEffect

open Sys2Proof Sys2Proof.Machine Sys2Proof.Claims

/-! ### The exact state after INIT's item list -/

@[simp] theorem afterTransfer_afterTransfer (s : State) (f g : Bool) (l m : List MicroOp) :
    afterTransfer (afterTransfer s f l) g m = afterTransfer s g (l ++ m) := by simp [afterTransfer]

theorem runItems_singleNibble (P : Params) (v : Byte) (t : Nat) (s : State) :
    runItems (emits (singleNibble P v t)) s = afterTransfer s false (singleNibble P v t) := by
  rw [singleNibble, emits_append, runItems_append, runItems_nibble, runItems_wait]
  simp [afterTransfer]

theorem runItems_priming (P : Params) (s : State) :
    runItems (emits (priming P)) s = afterTransfer s false (priming P) := by
  simp only [priming, emits_append, runItems_append, runItems_wait, runItems_singleNibble]
  simp [afterTransfer]

@[simp] theorem emitted_toggleDC (P : Params) (v : Byte) :
    emitted (toggleDC P v) = sendCommand P (displayControlCmd v) := by simp [toggleDC]

@[simp] theorem emitted_toggleDM (P : Params) (v : Byte) :
    emitted (toggleDM P v) = sendCommand P (entryModeCmd v) := by simp [toggleDM]

theorem runItems_initItems (P : Params) (s : State) :
    runItems (initItems P s.dc) s =
      afterTransfer { s with dc := initDC3 s.dc, phase := .ready } false (emitted (initItems P s.dc)) := by
  simp only [initItems, runItems_append, runItems_cons, runItems_nil, Item.apply_setPhase, runItems_priming,
    runItems_sendCommand, runItems_toggleDC]
  simp [afterTransfer]

/-! ### The effect of an operation -/

/-- The registers an operation writes, all its other effects left out (R23, R100, R110): its item list's last write of
each. -/
def afterWrites (i : Instr) (s : State) : State :=
  match i with
  | .init => { s with dc := initDC3 s.dc, phase := .ready }
  | .displayOn => { s with dc := setBits s.dc dcDisplayOn }
  | .displayOff => { s with dc := clearBits s.dc dcDisplayOn }
  | .cursorOn => { s with dc := setBits s.dc dcCursorOn }
  | .cursorOff => { s with dc := clearBits s.dc dcCursorOn }
  | .blinkOn => { s with dc := setBits s.dc dcBlinkOn }
  | .blinkOff => { s with dc := clearBits s.dc dcBlinkOn }
  | .leftToRight => { s with dm := setBits s.dm dmLeftToRight }
  | .rightToLeft => { s with dm := clearBits s.dm dmLeftToRight }
  | _ => s

/-- The item list `l`, built for `i` at the masks `dc` and `dm`, does nothing; or, run from those masks, it leaves the
register writes of `i`, the lines at rest, `RS` high after a data operation and low after any other, and its
micro-operations. -/
def HasEffect (i : Instr) (dc dm : Byte) (l : List Item) : Prop :=
  (l = [] ∧ i ≠ .init) ∨ ∀ s : State, s.dc = dc → s.dm = dm →
    runItems l s = afterTransfer (afterWrites i s) (sendsData i) (emitted l)

section
variable {i : Instr} {dc dm : Byte} (P : Params)

theorem hasEffect_command (hi : ∀ s, afterWrites i s = s) (hd : sendsData i = false) (v : Byte) :
    HasEffect i dc dm (emits (sendCommand P v)) :=
  .inr fun s _ _ => by rw [runItems_sendCommand, emitted_emits, hi, hd]

theorem hasEffect_text (hi : ∀ s, afterWrites i s = s) (hd : sendsData i = true) (p : List Byte) :
    HasEffect i dc dm (emits (sendText P p)) := by
  by_cases hp : p = []
  · exact .inl ⟨by simp [hp], by rintro rfl; cases hd⟩
  · exact .inr fun s _ _ => by rw [runItems_sendText, if_neg hp, emitted_emits, hi, hd]

theorem hasEffect_glyph (hi : ∀ s, afterWrites i s = s) (hd : sendsData i = true) (v : Byte) {p : List Byte}
    (hp : p ≠ []) : HasEffect i dc dm (emits (sendCommand P v ++ sendText P p)) :=
  .inr fun s _ _ => by
    rw [emitted_emits, emits_append, runItems_append, runItems_sendCommand, runItems_sendText, if_neg hp,
      afterTransfer_afterTransfer, hi, hd]

theorem hasEffect_toggleDC {f : Byte → Byte} (hi : ∀ s, afterWrites i s = { s with dc := f s.dc })
    (hd : sendsData i = false) : HasEffect i dc dm (toggleDC P (f dc)) :=
  .inr fun s hdc _ => by rw [runItems_toggleDC, emitted_toggleDC, hi, hd, hdc]

theorem hasEffect_toggleDM {f : Byte → Byte} (hi : ∀ s, afterWrites i s = { s with dm := f s.dm })
    (hd : sendsData i = false) : HasEffect i dc dm (toggleDM P (f dm)) :=
  .inr fun s _ hdm => by rw [runItems_toggleDM, emitted_toggleDM, hi, hd, hdm]

end

/-- Every operation's item list has the operation's effect. -/
theorem hasEffect_program {P : Params} {i : Instr} {dc dm : Byte} {l : List Item} (h : program P i dc dm = .ok l) :
    HasEffect i dc dm l := by
  cases i
  case init => cases h; exact .inr fun s hdc _ => hdc ▸ runItems_initItems P s
  case setCursor col row =>
    simp only [program, progSetCursor] at h
    split at h
    · split at h
      · cases h; exact hasEffect_command P (fun _ => rfl) rfl _
      · cases h
    · cases h; exact .inl ⟨rfl, nofun⟩
  case displayOn => cases h; exact hasEffect_toggleDC P (f := (setBits · dcDisplayOn)) (fun _ => rfl) rfl
  case displayOff => cases h; exact hasEffect_toggleDC P (f := (clearBits · dcDisplayOn)) (fun _ => rfl) rfl
  case cursorOn => cases h; exact hasEffect_toggleDC P (f := (setBits · dcCursorOn)) (fun _ => rfl) rfl
  case cursorOff => cases h; exact hasEffect_toggleDC P (f := (clearBits · dcCursorOn)) (fun _ => rfl) rfl
  case blinkOn => cases h; exact hasEffect_toggleDC P (f := (setBits · dcBlinkOn)) (fun _ => rfl) rfl
  case blinkOff => cases h; exact hasEffect_toggleDC P (f := (clearBits · dcBlinkOn)) (fun _ => rfl) rfl
  case leftToRight => cases h; exact hasEffect_toggleDM P (f := (setBits · dmLeftToRight)) (fun _ => rfl) rfl
  case rightToLeft => cases h; exact hasEffect_toggleDM P (f := (clearBits · dmLeftToRight)) (fun _ => rfl) rfl
  case sendData v =>
    cases h
    simpa [sendText] using hasEffect_text (i := .sendData v) P (fun _ => rfl) rfl [v]
  case createGlyph slot p =>
    cases h
    exact hasEffect_glyph P (fun _ => rfl) rfl _ (List.ne_nil_of_length_pos (by simp))
  case writeString | writeInt => cases h; exact hasEffect_text P (fun _ => rfl) rfl _
  case writeFloat x =>
    simp only [program, progWriteFloat] at h
    split at h
    · cases h
    · split at h
      · cases h
      · cases h; exact hasEffect_text P (fun _ => rfl) rfl _
  all_goals (cases h; exact hasEffect_command P (fun _ => rfl) rfl _)

/-- What a completed operation leaves. -/
theorem exec_cases {i : Instr} {s t : State} (h : exec i s = .next t) :
    t = s ∨ ∃ l, t = afterTransfer (afterWrites i s) (sendsData i) l := by
  rw [exec_eq_complete] at h
  obtain ⟨l, hl, rfl⟩ := complete_next h
  obtain ⟨rfl, -⟩ | heff := hasEffect_program hl
  · exact .inl rfl
  · exact .inr ⟨_, heff s rfl rfl⟩

/-- A completed operation leaves the sequencer's place, the host's side and the model's own fields (assumption 10). -/
theorem exec_frame {i : Instr} {s t : State} (h : exec i s = .next t) :
    t.busy = s.busy ∧ t.upc = s.upc ∧ t.prog = s.prog ∧ t.dly = s.dly ∧ t.port = s.port ∧ t.resetLine = s.resetLine ∧
    t.grain = s.grain ∧ s.trace <+: t.trace := by
  rw [exec_eq_complete] at h
  obtain ⟨l, -, rfl⟩ := complete_next h
  exact runItems_frame l s

/-! ### What the register writes leave unchanged -/

theorem afterWrites_dc {i : Instr} (h : writesDC i = false) (s : State) : (afterWrites i s).dc = s.dc := by
  cases i <;> simp_all [afterWrites, writesDC]

theorem afterWrites_dm {i : Instr} (h : writesDM i = false) (s : State) : (afterWrites i s).dm = s.dm := by
  cases i <;> simp_all [afterWrites, writesDM]

theorem afterWrites_phase {i : Instr} (h : i ≠ .init) (s : State) : (afterWrites i s).phase = s.phase := by
  cases i <;> simp_all [afterWrites]

/-- The register writes read no phase (R14, R161 X11). -/
theorem afterWrites_withPhase (i : Instr) (s : State) (p : Phase) :
    afterWrites i { s with phase := p } =
      if i = .init then afterWrites i s else { afterWrites i s with phase := p } := by
  cases i <;> simp [afterWrites]

/-- The register writes read no line, and a transfer drives all three (R17, R21). -/
theorem afterTransfer_withLines (i : Instr) (s : State) (d : Nibble) (e r f : Bool) (l : List MicroOp) :
    afterTransfer (afterWrites i { s with data := d, e := e, rs := r }) f l = afterTransfer (afterWrites i s) f l := by
  cases i <;> rfl

/-- Setting a bit of a mask leaves the others (R110). -/
theorem setBits_and_not (m b : Byte) : setBits m b &&& ~~~b = m &&& ~~~b := by
  ext j; simp [setBits, Bool.and_or_distrib_right]

/-- Clearing a bit of a mask leaves the others (R110). -/
theorem clearBits_and_not (m b : Byte) : clearBits m b &&& ~~~b = m &&& ~~~b := by
  simp [clearBits, BitVec.and_assoc]

/-- INIT writes the three low bits of `DC` and no other (R100). -/
theorem initDC3_and_high (dc : Byte) : initDC3 dc &&& 0xF8 = dc &&& 0xF8 := by
  revert dc; decide

end Sys2Proof.Proofs.OperationEffect
end

section
/-! Runs of the machine item by item (spec 10_state R15, R16, R18): what one step of a busy sequencer does, the count of
steps a request has before it, and the state it ends in. -/

namespace Sys2Proof.Proofs.SequencerRun

open Sys2Proof Sys2Proof.Machine Sys2Proof.Safety Sys2Proof.Claims Sys2Proof.Proofs.Scope

/-! ### One step of a busy sequencer -/

theorem delay_eq_loadedWait (i : Item) : i.delay = loadedWait i := by
  rcases i with (_ | _ | _ | _) | _ | _ | _ <;> rfl

/-- The three kinds of step of a busy sequencer: a microsecond of a wait, an item, and, past the last item, the end. -/
theorem seqStep_cases (s : State) :
    (s.dly ≠ 0 ∧ seqStep s = finish { s with dly := s.dly - 1 }) ∨
    (∃ i, s.dly = 0 ∧ s.prog[s.upc]? = some i ∧
      seqStep s = finish { i.apply s with upc := s.upc + 1, dly := i.delay }) ∨
    (s.dly = 0 ∧ s.prog.length ≤ s.upc ∧ seqStep s = finish s) := by
  by_cases hd : s.dly = 0
  · by_cases hu : s.upc < s.prog.length
    · exact .inr (.inl ⟨_, hd, List.getElem?_eq_getElem hu, seqStep_item hd hu⟩)
    · have hu : s.prog.length ≤ s.upc := Nat.le_of_not_lt hu
      exact .inr (.inr ⟨hd, hu, seqStep_none hd hu⟩)
  · exact .inl ⟨hd, seqStep_wait hd⟩

@[simp] theorem seqStep_port (s : State) : (seqStep s).port = s.port := by
  obtain ⟨-, h⟩ | ⟨i, -, -, h⟩ | ⟨-, -, h⟩ := seqStep_cases s <;> simp [h]

theorem trace_prefix_seqStep (s : State) : s.trace <+: (seqStep s).trace := by
  obtain ⟨-, h⟩ | ⟨i, -, -, h⟩ | ⟨-, -, h⟩ := seqStep_cases s <;> simp [h]

/-- `finish` ends a busy block's request when neither a wait nor an item is left, and else goes on with it. -/
theorem finish_ends_or_goesOn {s u : State} (hb : u.busy = true) (hp : u.prog = s.prog) :
    if u.dly = 0 ∧ s.prog.length ≤ u.upc then Ended (finish u) else GoesOn s (finish u) u.upc := by
  rw [← hp]
  split
  case isTrue h => rw [finish_done h.1 h.2]; exact ⟨rfl, rfl, rfl⟩
  case isFalse h => rw [finish, if_neg h]; exact ⟨hb, rfl, hp⟩

/-- R42, for one step. -/
theorem trace_prefix_step {s t : State} (h : step s = .next t) : s.trace <+: t.trace := by
  obtain ⟨-, rfl⟩ | ⟨-, -, rfl⟩ | ⟨-, -, -, rfl⟩ | ⟨-, -, o, rest, -, hserve⟩ := step_cases h
  · exact List.prefix_rfl
  · exact trace_prefix_seqStep s
  · exact List.prefix_rfl
  · obtain rfl | ⟨i, l, -, -, ⟨-, rfl⟩ | ⟨-, j, m, -, rfl⟩⟩ := serve_cases exec_eq_complete hserve
    · exact List.prefix_rfl
    · rw [runItems_trace]; exact List.prefix_append ..
    · exact List.prefix_rfl

/-! ### Runs -/

/-- The run of the machine, at the model's own types. -/
def run (n : Nat) : State → Host.Outcome State Fault Refusal := core.run n

theorem run_zero (s : State) : run 0 s = .next s := rfl

theorem run_succ (n : Nat) (s : State) : run (n + 1) s = andThen (step s) (run n) := by
  have hcore : core.step s = step s := rfl
  simp only [run, Host.Core.run, hcore]
  cases step s <;> rfl

theorem andThen_assoc (o : Host.Outcome State Fault Refusal) (f g : State → Host.Outcome State Fault Refusal) :
    andThen (andThen o f) g = andThen o fun t => andThen (f t) g := by cases o <;> rfl

/-- A run cut in two. -/
theorem run_add (m n : Nat) (s : State) : run (m + n) s = andThen (run m s) (run n) := by
  induction m generalizing s with
  | zero => rw [Nat.zero_add]; rfl
  | succ m ih => rw [Nat.succ_add, run_succ, run_succ, andThen_assoc]; exact congrArg _ (funext ih)

theorem andThen_next {o : Host.Outcome State Fault Refusal} {f : State → Host.Outcome State Fault Refusal} {t : State}
    (h : andThen o f = .next t) : ∃ u, o = .next u ∧ f u = .next t := by
  cases o with
  | next u => exact ⟨u, rfl, h⟩
  | fault r => cases r
  | refused r => cases h

theorem trace_prefix_run {n : Nat} {s t : State} (h : run n s = .next t) : s.trace <+: t.trace := by
  induction n generalizing s with
  | zero => cases h; exact List.prefix_rfl
  | succ n ih =>
    obtain ⟨u, hu, ht⟩ := andThen_next (run_succ n s ▸ h)
    exact (trace_prefix_step hu).trans (ih ht)

/-- A run that comes to `t` has a state at every step on the way, and their traces are initial parts of `t`'s (R42). -/
theorem run_of_le {k n : Nat} {s t : State} (h : run n s = .next t) (hk : k ≤ n) :
    ∃ u, run k s = .next u ∧ s.trace <+: u.trace ∧ u.trace <+: t.trace := by
  rw [← Nat.add_sub_cancel' hk, run_add] at h
  obtain ⟨u, hu, ht⟩ := andThen_next h
  exact ⟨u, hu, trace_prefix_run hu, trace_prefix_run ht⟩

/-! ### A request runs to its end -/

/-- The steps a request has before it: the running wait, and the items with their waits. -/
def stepsLeft (s : State) : Nat := s.dly.toNat + stepsOf (remaining s)

/-- The block after the rest of its request. -/
def completed (s : State) : State := (runItems (remaining s) s).withSequencer false 0 [] 0

theorem stepsOf_cons (i : Item) (l : List Item) : stepsOf (i :: l) = 1 + i.delay.toNat + stepsOf l := by
  rcases i with (_ | _ | _ | _) | _ | _ | _ <;> rfl

theorem stepsOf_eq_zero {l : List Item} : stepsOf l = 0 ↔ l = [] := by
  cases l with
  | nil => simp [stepsOf]
  | cons i l => simp [stepsOf_cons]

/-- Nothing is left exactly when no wait runs and every item has been performed. -/
theorem stepsLeft_eq_zero {s : State} : stepsLeft s = 0 ↔ s.dly = 0 ∧ s.prog.length ≤ s.upc := by
  have hdly : s.dly.toNat = 0 ↔ s.dly = 0 := by bv_omega
  rw [stepsLeft, Nat.add_eq_zero_iff, stepsOf_eq_zero, remaining, List.drop_eq_nil_iff, hdly]

/-- The block has something left to do: the working part of `BlockInv`. -/
theorem stepsLeft_ne_zero {s : State} : stepsLeft s ≠ 0 ↔ s.upc < s.prog.length ∨ s.dly ≠ 0 := by
  rw [Ne, stepsLeft_eq_zero, not_and_or, Nat.not_le, or_comm]

/-- Where the sequencer stands matters to the end of a request by the items that remain alone. -/
theorem completed_withSequencer (s : State) (b : Bool) (u : Nat) (p : List Item) (d : BitVec 16) :
    completed (s.withSequencer b u p d) = (runItems (p.drop u) s).withSequencer false 0 [] 0 := by
  rw [completed, show remaining (s.withSequencer b u p d) = p.drop u from rfl, runItems_withSequencer]
  rfl

theorem finish_of_stepsLeft_zero {s : State} (h : stepsLeft s = 0) : finish s = completed s := by
  obtain ⟨hd, hu⟩ := stepsLeft_eq_zero.1 h
  rw [finish_done hd hu, completed, remaining, List.drop_eq_nil_of_le hu, ← hd]
  rfl

theorem finish_of_stepsLeft_ne_zero {s : State} (h : stepsLeft s ≠ 0) : finish s = s :=
  if_neg fun hdone => h (stepsLeft_eq_zero.2 hdone)

/-- A step with something left to do does one of the steps left, and the request still ends in the same state. -/
theorem seqStep_of_stepsLeft {s : State} {n : Nat} (h : stepsLeft s = n + 1) :
    ∃ u, seqStep s = finish u ∧ stepsLeft u = n ∧ completed u = completed s ∧ u.busy = s.busy ∧
      u.resetLine = s.resetLine := by
  by_cases hd : s.dly = 0
  · have hu : s.upc < s.prog.length := (stepsLeft_ne_zero.1 (h ▸ n.succ_ne_zero)).resolve_right (absurd hd)
    have hrem : remaining s = s.prog[s.upc] :: s.prog.drop (s.upc + 1) := List.drop_eq_getElem_cons hu
    refine ⟨((s.prog[s.upc]).apply s).withSequencer s.busy (s.upc + 1) s.prog (s.prog[s.upc]).delay, ?_, ?_, ?_, rfl,
      Item.apply_resetLine ..⟩
    · rw [seqStep_item hd hu]
      simp [State.withSequencer]
    · simp only [stepsLeft, hrem, stepsOf_cons, hd, BitVec.ofNat_eq_ofNat, BitVec.toNat_ofNat, Nat.zero_mod] at h
      simp only [stepsLeft, remaining, State.withSequencer]
      omega
    · rw [completed_withSequencer, completed, hrem, runItems_cons]
  · refine ⟨_, seqStep_wait hd, ?_, completed_withSequencer s s.busy s.upc s.prog (s.dly - 1), rfl, rfl⟩
    have hdly : (s.dly - 1).toNat + 1 = s.dly.toNat := by bv_omega
    simp only [stepsLeft, remaining] at h ⊢
    omega

/-- A busy block runs the steps left and is then at rest, its request completed. -/
theorem run_stepsLeft {n : Nat} {s : State} (hr : s.resetLine = false) (hb : s.busy = true) (h : stepsLeft s = n) :
    run n (finish s) = .next (completed s) := by
  induction n generalizing s with
  | zero => rw [finish_of_stepsLeft_zero h, run_zero]
  | succ n ih =>
    obtain ⟨u, hu, hn, hc, hub, hur⟩ := seqStep_of_stepsLeft h
    rw [finish_of_stepsLeft_ne_zero (by omega), run_succ, step_busy hr hb, hu, ← hc]
    exact ih (hur.trans hr) (hub.trans hb) hn

/-! ### Acceptance -/

theorem withSequencer_of_idle {s : State} (hs : Idle s) : s.withSequencer false 0 [] 0 = s := by
  obtain ⟨-, hb, hu, hp, hd⟩ := hs
  rw [State.withSequencer, ← hb, ← hu, ← hp, ← hd]

/-- An idle block runs an accepted program from its first item; the empty one is over at once (R15, R113). -/
theorem begin_ok_of_idle {s : State} (hs : Idle s) (l : List Item) :
    begin (.ok l) s = .next (finish (s.withSequencer true 0 l 0)) := by
  cases l with
  | nil =>
    rw [begin_nil, finish_done (s := s.withSequencer true 0 [] 0) rfl (Nat.le_refl 0)]
    exact congrArg _ (withSequencer_of_idle hs).symm
  | cons i l =>
    rw [begin_cons, finish_more (s := s.withSequencer true 0 (i :: l) 0) (Nat.zero_lt_succ _)]
    rfl

/-- From an idle block, the state at the end of an item list is that of the list run whole. -/
theorem completed_of_idle {s : State} (hs : Idle s) (l : List Item) :
    completed (s.withSequencer true 0 l 0) = runItems l s := by
  rw [completed_withSequencer, List.drop_zero, ← runItems_withSequencer, withSequencer_of_idle hs]

/-- An idle block at the item grain comes to the end of an accepted item list in its counted steps. -/
theorem run_begin {s : State} (hs : Idle s) (l : List Item) :
    andThen (begin (.ok l) s) (run (stepsOf l)) = .next (runItems l s) := by
  rw [begin_ok_of_idle hs, ← completed_of_idle hs]
  exact run_stepsLeft hs.1 rfl (Nat.zero_add _)

section
variable {s : State} {o : Offer} {rest : List Offer} {i : Instr}

/-- An idle block that is offered a legal request runs the decoded instruction whole, and the offer is taken. -/
theorem step_offer_request (hr : s.resetLine = false) (hb : s.busy = false) (hp : s.port = o :: rest)
    (ho : decodeOffer o = .ok i) (hg : s.grain = .request) : step s = exec i { s with port := rest } := by
  rw [step_serve hr hb hp, serve_ok _ ho]
  simp [accept, hg]

/-- At the item grain it begins the instruction's item list. -/
theorem step_offer_item (hr : s.resetLine = false) (hb : s.busy = false) (hp : s.port = o :: rest)
    (ho : decodeOffer o = .ok i) (hg : s.grain = .item) :
    step s = begin (program params i s.dc s.dm) { s with port := rest } := by
  rw [step_serve hr hb hp, serve_ok _ ho]
  simp [accept, hg]

end

theorem decodeOffer_of_decodeTableWord {nbits w : Nat} {i : Instr} (h : decodeTableWord nbits w = some i) :
    decodeOffer (offerOfWord nbits w) = .ok i := by
  unfold decodeTableWord at h
  split at h
  · rename_i j hj
    rw [hj, Option.some.inj h]
  · cases h

end Sys2Proof.Proofs.SequencerRun
end

section
/-! The order in which INIT writes `phase` (spec 10_state R14, 41_init_sequence R101): its item list is stretches that
write no phase and end in a wait, with a write of `phase` before each and after the last. -/

namespace Sys2Proof.Proofs.InitPhases

open Sys2Proof Sys2Proof.Machine Sys2Proof.Claims

@[simp] theorem phasesOf_append (l m : List Item) : phasesOf (l ++ m) = phasesOf l ++ phasesOf m := by
  induction l with
  | nil => rfl
  | cons i l ih => cases i <;> simp [phasesOf, ih]

@[simp] theorem phasesOf_emits (l : List MicroOp) : phasesOf (emits l) = [] := by
  induction l with
  | nil => rfl
  | cons m l ih => exact ih

/-- The items write no phase, and the last of them is a wait. -/
def EndsInWait (l : List Item) : Prop := phasesOf l = [] ∧ ∃ m t, l = m ++ [.micro (.w t)]

theorem endsInWait_emits (l : List MicroOp) (t : Nat) : EndsInWait (emits (l ++ [.w t])) :=
  ⟨phasesOf_emits _, emits l, t, emits_append ..⟩

theorem EndsInWait.append_left {l m : List Item} (hm : EndsInWait m) (hl : phasesOf l = []) : EndsInWait (l ++ m) := by
  obtain ⟨hp, k, t, rfl⟩ := hm
  exact ⟨by rw [phasesOf_append, hl, hp, List.append_nil], l ++ k, t, (List.append_assoc ..).symm⟩

theorem endsInWait_sendCommand (P : Params) (v : Byte) : EndsInWait (emits (sendCommand P v)) := endsInWait_emits ..

theorem endsInWait_toggleDC (P : Params) (v : Byte) : EndsInWait (toggleDC P v) :=
  (endsInWait_sendCommand P _).append_left (l := [.setDC v]) rfl

theorem endsInWait_priming (P : Params) : EndsInWait (emits (priming P)) := by
  rw [priming, singleNibble, singleNibble, singleNibble, singleNibble, ← List.append_assoc]
  exact endsInWait_emits ..

/-- After a stretch that ends in a wait, a write of `phase` comes right after that wait. -/
theorem phaseAfterWait_stretch {l m : List Item} {p : Phase} (a : Item) (hl : EndsInWait l)
    (hm : phaseAfterWait (.setPhase p :: m)) : phaseAfterWait (a :: (l ++ .setPhase p :: m)) := by
  obtain ⟨hp, k, t, rfl⟩ := hl
  rw [phasesOf_append, List.append_eq_nil_iff] at hp
  obtain ⟨hk, -⟩ := hp
  rw [List.append_assoc]
  induction k generalizing a with
  | nil => exact ⟨nofun, fun _ => ⟨t, rfl⟩, hm⟩
  | cons b k ih =>
    cases b with
    | setPhase q => cases hk
    | micro _ | setDC _ | setDM _ => exact ⟨nofun, ih _ hk⟩

/-- INIT's phases, in the order of R14. -/
theorem phasesOf_initItems (P : Params) (dc : Byte) : phasesOf (initItems P dc) =
    [.priming, .fourBitSelected, .functionConfigured, .displayEnabled, .homePositioned, .cleared, .ready] := by
  simp [initItems, phasesOf, (endsInWait_toggleDC P _).1]

/-- INIT's first item is its first write of `phase`, and every other write comes right after a wait. -/
theorem phaseWrites_initItems (P : Params) (dc : Byte) :
    (initItems P dc).head? = some (.setPhase .priming) ∧ phaseAfterWait (initItems P dc) := by
  simp only [initItems, List.append_assoc, List.cons_append, List.nil_append]
  refine ⟨rfl, ?_⟩
  apply phaseAfterWait_stretch _ (endsInWait_priming P)
  apply phaseAfterWait_stretch _ (endsInWait_sendCommand P functionSetCmd)
  apply phaseAfterWait_stretch _ (endsInWait_toggleDC P (initDC1 dc))
  apply phaseAfterWait_stretch _ (endsInWait_sendCommand P homeCmd)
  apply phaseAfterWait_stretch _ (endsInWait_sendCommand P clearCmd)
  rw [← List.append_assoc]
  exact phaseAfterWait_stretch _ ((endsInWait_toggleDC P _).append_left (endsInWait_toggleDC P _).1) trivial

end Sys2Proof.Proofs.InitPhases
end

section
/-! The obligations of the family 10_state: reset, the invariant of the block, the sequencer, and what an operation
reads and writes (spec 10_state R10 to R24). -/

namespace Sys2Proof.Proofs.BlockState

open Sys2Proof Sys2Proof.Machine Sys2Proof.Safety Sys2Proof.Claims
open Sys2Proof.Proofs.Scope Sys2Proof.Proofs.OperationEffect Sys2Proof.Proofs.SequencerRun Sys2Proof.Proofs.InitPhases

/-! ### Reset and the invariant -/

/-- Settles O1: the fields of the reset state, one by one. -/
theorem resetLeavesBlockIdleAndZero : Obligations.ResetLeavesBlockIdleAndZero :=
  ⟨rfl, rfl, rfl, rfl, rfl, rfl, rfl, rfl, rfl, rfl⟩

/-- Settles O2: the reset state is what a reset leaves of it. -/
theorem resetStateMeetsInvariant : Obligations.ResetStateMeetsInvariant := blockInv_takeReset State.reset

/-- Settles O3: every kind of step keeps the invariant, and a meaning is its program run whole. -/
theorem everyStepKeepsInvariant : Obligations.EveryStepKeepsInvariant :=
  fun _ _ h hst => blockInv_stepWith exec_eq_complete h hst

/-- Settles O4: the invariant of the state after the step, at rest. -/
theorem idleBlockHasQuietLines : Obligations.IdleBlockHasQuietLines := by
  intro s t h hst hb
  obtain ⟨-, hquiet⟩ := safeFrom_nil.1 (safeFrom_nil_of_idle (everyStepKeepsInvariant s t h hst) hb)
  exact hquiet

/-! ### Acceptance and the sequencer -/

/-- Settles O12: the step of an offered request, at each grain; a table word is such an offer. -/
theorem stepRunsDecodedInstruction : Obligations.StepRunsDecodedInstruction := by
  constructor
  · intro s o rest i hr hb hp ho
    exact ⟨step_offer_request hr hb hp ho, step_offer_item hr hb hp ho⟩
  · intro s nbits w i hw
    exact step_offer_request rfl rfl rfl (decodeOffer_of_decodeTableWord hw) rfl

/-- Settles O15: this is the third kind of step. -/
theorem idleBlockWaitsForRequest : Obligations.IdleBlockWaitsForRequest := fun _ hr hb hp => step_idle hr hb hp

/-- Settles O16, by the kinds of step of a busy sequencer; the third, past the last item, is none of a working block. -/
theorem sequencerPositionNeverSkips : Obligations.SequencerPositionNeverSkips := by
  intro s hr hb hworking
  refine ⟨_, step_busy hr hb, seqStep_port s, ?_⟩
  obtain ⟨hd, hstep⟩ | ⟨i, hd, hi, hstep⟩ | ⟨hd, hu, -⟩ := seqStep_cases s
  · have hend := finish_ends_or_goesOn (s := s) (u := { s with dly := s.dly - 1 }) hb rfl
    have hlast : s.dly - 1 = 0 ↔ s.dly = 1 := by bv_omega
    simp only [hlast] at hend
    rw [hstep]
    exact ⟨fun _ => ⟨by simp, by simp, by simp, by simp, by simp, by simp, by simp, by simp, hend⟩,
      fun h => absurd h hd⟩
  · have hend := finish_ends_or_goesOn (s := s) (u := { i.apply s with upc := s.upc + 1, dly := i.delay })
      ((Item.apply_busy i s).trans hb) (Item.apply_prog i s)
    rw [hstep]
    exact ⟨fun h => absurd hd h, fun _ => ⟨i, hi, by simp [delay_eq_loadedWait], by simp, by simp, by simp, by simp,
      by simp, by simp, by simp, by simpa only [delay_eq_loadedWait] using hend⟩⟩
  · exact absurd hworking (by simp [hd, hu])

/-- Settles O18: a working block has steps left, and `finish` does not end it before it takes them. -/
theorem busyBlockRunsToCompletion : Obligations.BusyBlockRunsToCompletion := by
  intro s hr hb hworking
  have hrun := run_stepsLeft hr hb rfl
  rw [finish_of_stepsLeft_ne_zero (stepsLeft_ne_zero.2 hworking)] at hrun
  exact hrun

/-- Settles O19: acceptance leaves the item list to be run, whose run ends in the state of the list run whole; the trace
never shrinks on the way. -/
theorem itemByItemEqualsWholeRequest : Obligations.ItemByItemEqualsWholeRequest := by
  intro s t o rest i l hs hg hp ho hl ht
  have hidle : Idle { s with port := rest } := hs
  obtain ⟨hr, hb, -⟩ := hs
  have hstep := step_offer_item hr hb hp ho hg
  rw [hl] at hstep
  rw [exec_eq_complete, show program params i _ _ = _ from hl, complete_ok] at ht
  have hrun : run (1 + stepsOf l) s = .next t := by
    rw [Nat.add_comm, run_succ, hstep, run_begin hidle, ht]
  exact ⟨hrun, fun k hk => run_of_le hrun hk⟩

/-- Settles O35: the order of the phases, and the stretches between them. -/
theorem initWalksPhasesInOrder : Obligations.InitWalksPhasesInOrder :=
  fun P dc _ => ⟨initItems P dc, rfl, phasesOf_initItems P dc, phaseWrites_initItems P dc⟩

/-! ### What an operation reads and writes -/

/-- Settles O48: an operation does nothing, or its register writes and a transfer. -/
theorem operationsWriteOnlyTheirRegisters : Obligations.OperationsWriteOnlyTheirRegisters := by
  intro i s t h
  obtain ⟨hbusy, hupc, hprog, hdly, hport, hreset, hgrain, htrace⟩ := exec_frame h
  obtain rfl | ⟨l, rfl⟩ := exec_cases h
  · simp
  · refine ⟨(afterWrites_dc · s), (afterWrites_dm · s), (afterWrites_phase · s), ?_, ?_, ?_, ?_, ?_, hbusy, hupc, hprog,
      hdly, hport, hreset, hgrain, htrace, .inr ⟨rfl, rfl⟩⟩
    · rintro (rfl | rfl)
      exacts [setBits_and_not s.dc dcDisplayOn, clearBits_and_not s.dc dcDisplayOn]
    · rintro (rfl | rfl)
      exacts [setBits_and_not s.dc dcCursorOn, clearBits_and_not s.dc dcCursorOn]
    · rintro (rfl | rfl)
      exacts [setBits_and_not s.dc dcBlinkOn, clearBits_and_not s.dc dcBlinkOn]
    · rintro (rfl | rfl)
      exacts [setBits_and_not s.dm dmLeftToRight, clearBits_and_not s.dm dmLeftToRight]
    · rintro rfl
      exact initDC3_and_high s.dc

/-- Settles O49: the item list is built from the masks alone, and its effect writes `phase` for INIT only. -/
theorem noOperationReadsPhase : Obligations.NoOperationReadsPhase := by
  intro i s p
  rw [exec_eq_complete, exec_eq_complete]
  show complete (program params i s.dc s.dm) _ = _
  cases hl : program params i s.dc s.dm with
  | error r => rfl
  | ok l =>
    obtain ⟨rfl, hi⟩ | heff := hasEffect_program hl
    · simp [onNext, andThen, hi]
    · rw [complete_ok, complete_ok, heff { s with phase := p } rfl rfl, heff s rfl rfl, afterWrites_withPhase]
      simp only [onNext, andThen]
      split <;> rfl

/-- Settles O50: the item list is built from the masks alone, and a transfer drives all three lines. -/
theorem noOperationReadsLines : Obligations.NoOperationReadsLines := by
  intro i s t d e r h
  rw [exec_eq_complete] at h
  obtain ⟨l, hl, rfl⟩ := complete_next h
  have hexec : exec i { s with data := d, e := e, rs := r } =
      .next (runItems l { s with data := d, e := e, rs := r }) := by
    rw [exec_eq_complete, show program params i _ _ = _ from hl, complete_ok]
  refine ⟨_, hexec, ?_⟩
  obtain ⟨rfl, -⟩ | heff := hasEffect_program hl
  · exact ⟨rfl, rfl, rfl, rfl, fun h => absurd rfl h⟩
  · rw [heff { s with data := d, e := e, rs := r } rfl rfl, heff s rfl rfl, afterTransfer_withLines]
    exact ⟨rfl, rfl, rfl, rfl, fun _ => rfl⟩

end Sys2Proof.Proofs.BlockState
end

section
/-! The transfers of the model as the statements write them (spec 40_transfer_primitives R80 to R84): the trace of a
command is the one 95_test_vectors writes down, and SEND_CMD's next state is given by it. -/

namespace Sys2Proof.Proofs.Wire

open Sys2Proof Sys2Proof.Machine Sys2Proof.Claims

/-- The second transfer of a byte drives its low nibble (R82). -/
@[simp] theorem highNibble_lowToHigh (v : Byte) : highNibble (lowToHigh v) = v.extractLsb' 0 4 := by
  ext i hi
  have hbit : 4 + i < 8 := by omega
  simp [highNibble, lowToHigh, hbit, ← BitVec.getLsbD_eq_getElem]

theorem nibble_eq_N (P : Params) (v : Byte) (f : Bool) : nibble P v f = N P (highNibble v) f := rfl

theorem sendByte_eq_byteTrace (P : Params) (v : Byte) (f : Bool) : sendByte P v f = byteTrace P v f := by
  rw [sendByte, nibble_eq_N, nibble_eq_N, highNibble_lowToHigh]; rfl

theorem classWait_eq (P : Params) (v : Byte) :
    classWait P v = if v.toNat < P.longThreshold.toNat then P.tLong else P.tShort := by
  unfold classWait latency
  by_cases h : v.toNat < P.longThreshold.toNat <;> simp [h]

theorem sendCommand_eq_commandTrace (P : Params) (v : Byte) : sendCommand P v = commandTrace P v := by
  simp only [sendCommand, sendByte_eq_byteTrace, classWait_eq, commandTrace]

theorem afterTransfer_sendCommand (s : State) (v : Byte) :
    afterTransfer s false (sendCommand params v) = afterCommand s v := by
  rw [sendCommand_eq_commandTrace]; rfl

/-- A request whose program is one command takes the block to the state after that command. -/
theorem complete_sendCommand (s : State) (v : Byte) :
    complete (.ok (emits (sendCommand params v))) s = .next (afterCommand s v) := by
  rw [complete_ok, runItems_sendCommand, afterTransfer_sendCommand]

theorem exec_sendCmd (v : Byte) (s : State) : exec (.sendCmd v) s = .next (afterCommand s v) := complete_sendCommand s v

end Sys2Proof.Proofs.Wire
end

section
/-! The position map (spec 20_memory R32) and SET_CURSOR's column test (42_presentation R113). -/

namespace Sys2Proof.Proofs.PositionMap

open Sys2Proof Sys2Proof.Machine

@[simp] theorem cursorAddress_zero (col : Byte) : cursorAddress col 0 = some (col.setWidth 7) := by
  rw [cursorAddress, rowBase_zero, Option.map_some, BitVec.zero_add]

@[simp] theorem cursorAddress_one (col : Byte) : cursorAddress col 1 = some (0x40#7 + col.setWidth 7) := by
  rw [cursorAddress, rowBase_one, Option.map_some]

theorem cursorAddress_other (col : Byte) {row : Byte} (h0 : row ≠ 0) (h1 : row ≠ 1) : cursorAddress col row = none := by
  simp [cursorAddress, rowBase_other h0 h1]

theorem columnInRange_iff {col : Byte} : columnInRange col = true ↔ col.toNat < 16 := decide_eq_true_iff

/-- A column outside the 16 has the empty item list, whatever the row is (R113). -/
theorem progSetCursor_of_column_out (P : Params) {col : Byte} (row : Byte) (h : 16 ≤ col.toNat) :
    progSetCursor P col row = .ok [] :=
  if_neg (fun hc => Nat.not_lt.2 h (columnInRange_iff.1 hc))

theorem exec_setCursor_of_column_out {col : Byte} (row : Byte) (s : State) (h : 16 ≤ col.toNat) :
    exec (.setCursor col row) s = .next s := by
  rw [exec_eq_complete, program, progSetCursor_of_column_out params row h, complete_ok, runItems_nil]

end Sys2Proof.Proofs.PositionMap
end

section
/-! The line-driver adapter (spec 20_memory R30): the bits of a written port, and the ports of a written list. -/

namespace Sys2Proof.Proofs.Adapter

open Sys2Proof Sys2Proof.Machine

/-! ### One port: what is read after a masked write -/

/-- The mask of a field has the four bits from `shift` on. -/
theorem getLsbD_fieldMask {w j : Nat} (shift : Nat) (hj : j < w) :
    ((0xF#w) <<< shift).getLsbD j = decide (shift ≤ j ∧ j < shift + 4) := by
  have hlow : (0xF#w).getLsbD (j - shift) = decide (j - shift < 4) := by
    rw [BitVec.getLsbD_ofNat, ← Nat.testBit_two_pow_sub_one 4 (j - shift), decide_eq_true (by omega : j - shift < w)]
    rfl
  rw [BitVec.getLsbD_shiftLeft, hlow, Bool.eq_iff_iff]
  simp only [Bool.and_eq_true, decide_eq_true_eq, Bool.not_eq_true', decide_eq_false_iff_not]
  omega

/-- The nibble moved to its field has its four bits from `shift` on and zeros elsewhere. -/
theorem getLsbD_fieldValue {w j : Nat} (shift : Nat) (n : Nibble) (hj : j < w) :
    (n.setWidth w <<< shift).getLsbD j = (decide (shift ≤ j ∧ j < shift + 4) && n.getLsbD (j - shift)) := by
  rw [BitVec.getLsbD_shiftLeft, BitVec.getLsbD_setWidth]
  by_cases hfield : j < shift + 4
  · have hw : j - shift < w := by omega
    rw [Bool.eq_iff_iff]
    simp [hj, hw, hfield]
  · have hout : n.getLsbD (j - shift) = false := BitVec.getLsbD_of_ge n _ (by omega)
    simp [hout]

/-- R30 for the data lines: the field holds the nibble, every other bit stands. -/
theorem getLsbD_writeField {w j : Nat} (port : BitVec w) (shift : Nat) (n : Nibble) (hj : j < w) :
    (writeField port shift n).getLsbD j =
      if shift ≤ j ∧ j < shift + 4 then n.getLsbD (j - shift) else port.getLsbD j := by
  rw [writeField, BitVec.getLsbD_or, BitVec.getLsbD_and, BitVec.getLsbD_not, getLsbD_fieldMask shift hj,
    getLsbD_fieldValue shift n hj]
  split
  case isTrue h => simp [h]
  case isFalse h => simp [h, hj]

/-- The mask of one bit. -/
theorem getLsbD_bitMask {w j : Nat} (k : Nat) (hj : j < w) : ((1#w) <<< k).getLsbD j = decide (j = k) := by
  rw [← BitVec.twoPow_eq, BitVec.getLsbD_twoPow, Bool.eq_iff_iff]
  simp only [Bool.and_eq_true, decide_eq_true_eq]
  omega

/-- One bit moved to its place, with zeros elsewhere. -/
theorem getLsbD_bitValue {w j : Nat} (k : Nat) (b : Bool) (hj : j < w) :
    ((BitVec.ofBool b).setWidth w <<< k).getLsbD j = (decide (j = k) && b) := by
  rw [BitVec.getLsbD_shiftLeft, BitVec.getLsbD_setWidth, BitVec.getLsbD_ofBool]
  cases b
  case false => simp
  case true =>
    rw [Bool.eq_iff_iff]
    simp only [Bool.and_eq_true, Bool.and_true, decide_eq_true_eq, Bool.not_eq_true', decide_eq_false_iff_not]
    omega

/-- R30 for `E` and `RS`: the line's bit holds the value, every other bit stands. -/
theorem getLsbD_writeBit {w j : Nat} (port : BitVec w) (k : Nat) (b : Bool) (hj : j < w) :
    (writeBit port k b).getLsbD j = if j = k then b else port.getLsbD j := by
  rw [writeBit, BitVec.getLsbD_or, BitVec.getLsbD_and, BitVec.getLsbD_not, getLsbD_bitMask k hj, getLsbD_bitValue k b hj]
  split
  case isTrue h => simp [h]
  case isFalse h => simp [h, hj]

/-! ### The ports: one is written, the others stand -/

section
variable {w : Nat} (L : PortLayout) (ports : List (BitVec w))

theorem onPorts_d (n : Nibble) :
    (MicroOp.d n).onPorts L ports = ports.modify L.dataPort (fun p => writeField p L.dataShift n) := rfl

theorem onPorts_rs (b : Bool) :
    (MicroOp.rs b).onPorts L ports = ports.modify L.rsPort (fun p => writeBit p L.rsBit b) := rfl

theorem onPorts_e (b : Bool) :
    (MicroOp.e b).onPorts L ports = ports.modify L.ePort (fun p => writeBit p L.eBit b) := rfl

theorem onPorts_w (t : Nat) : (MicroOp.w t).onPorts L ports = ports := rfl

end

/-- A write of port `k` leaves every other port, and puts the written value in port `k`. -/
theorem getElem?_writePort {w : Nat} (k : Nat) (f : BitVec w → BitVec w) (ports : List (BitVec w)) (j : Nat) :
    (j ≠ k → (ports.modify k f)[j]? = ports[j]?) ∧ (∀ p, ports[k]? = some p → (ports.modify k f)[k]? = some (f p)) :=
  ⟨fun hj => List.getElem?_modify_ne f ports (Ne.symm hj), fun p hp => by rw [List.getElem?_modify_eq, hp]; rfl⟩

end Sys2Proof.Proofs.Adapter
end

section
/-! The obligations of the family 20_memory: the order of the trace, the position map and the physical ports (spec
20_memory R30, R32, R42). -/

namespace Sys2Proof.Proofs.Memory

open Sys2Proof Sys2Proof.Machine Sys2Proof.Claims
open Sys2Proof.Proofs.SequencerRun Sys2Proof.Proofs.Wire Sys2Proof.Proofs.PositionMap Sys2Proof.Proofs.Adapter

/-- Settles O17: `trace_prefix_step` has it for each of the four kinds of step. -/
theorem traceOnlyGrows : Obligations.TraceOnlyGrows := fun _ _ h => trace_prefix_step h

/-- Settles O28: the map row by row, then SET_CURSOR's column test and SEND_CMD's own next state. -/
theorem cursorAddressIsPositionMap : Obligations.CursorAddressIsPositionMap := by
  refine ⟨?_, fun col row => cursorAddress_other col, fun col row s => exec_setCursor_of_column_out row s,
    fun v s _ => exec_sendCmd v s⟩
  intro col hcol
  exact ⟨_, _, cursorAddress_zero col, by bv_omega, cursorAddress_one col, by bv_omega, by bv_omega⟩

/-- Settles O55: the written port bit by bit; the list of ports changes at the written line's port alone. -/
theorem adapterLeavesOtherPortBits : Obligations.AdapterLeavesOtherPortBits := by
  refine ⟨fun w port shift j n => getLsbD_writeField port shift n, fun w port k j b => getLsbD_writeBit port k b, ?_⟩
  intro w L ports j n b t
  rw [onPorts_d, onPorts_rs, onPorts_e, onPorts_w]
  obtain ⟨hd, hd'⟩ := getElem?_writePort L.dataPort (fun p => writeField p L.dataShift n) ports j
  obtain ⟨hrs, hrs'⟩ := getElem?_writePort L.rsPort (fun p => writeBit p L.rsBit b) ports j
  obtain ⟨he, he'⟩ := getElem?_writePort L.ePort (fun p => writeBit p L.eBit b) ports j
  exact ⟨hd, hrs, he, hd', hrs', he', rfl⟩

end Sys2Proof.Proofs.Memory
end

section
/-! The decoder of host requests (spec 30_encoding R62 to R66): what it answers for each form of payload, the row of R64 a
decoded request lies in, and the header fields it reads. -/

namespace Sys2Proof.Proofs.RequestDecoder

open Sys2Proof Sys2Proof.Laws

/-! ### The four forms of payload -/

theorem bare_cases {p : List Byte} {i : Instr} {d : Except Reject Instr} (h : bare p i = d) :
    (p = [] ∧ d = .ok i) ∨ d = .error .wrongCount := by
  subst h
  cases p with
  | nil => exact .inl ⟨rfl, rfl⟩
  | cons => exact .inr rfl

theorem glyphRequest_cases {a : Byte} {p : List Byte} {d : Except Reject Instr} (h : glyphRequest a p = d) :
    (p.length = 8 ∧ ∃ g, d = .ok (.createGlyph a g)) ∨ d = .error .wrongCount := by
  subst h
  unfold glyphRequest
  split
  case isTrue hp => exact .inl ⟨hp, _, rfl⟩
  case isFalse => exact .inr rfl

theorem intRequest_cases {p : List Byte} {d : Except Reject Instr} (h : intRequest p = d) :
    (p.length = 4 ∧ ∃ v, d = .ok (.writeInt v)) ∨ d = .error .wrongCount := by
  subst h
  unfold intRequest
  split
  · exact .inl ⟨rfl, _, rfl⟩
  · exact .inr rfl

theorem floatRequest_cases {p : List Byte} {d : Except Reject Instr} (h : floatRequest p = d) :
    (p.length = 8 ∧ ∃ x, d = .ok (.writeFloat x)) ∨ d = .error .wrongCount := by
  subst h
  unfold floatRequest
  split
  · exact .inl ⟨rfl, _, rfl⟩
  · exact .inr rfl

theorem glyphRequest_toList (a : Byte) (g : Vector Byte Config.glyphRows) :
    glyphRequest a g.toList = .ok (.createGlyph a g) := dif_pos g.size_toArray

/-- The bytes of WRITE_INT's operand put together again (R63). -/
theorem intRequest_bytes32 (v : BitVec Config.intWidth) : intRequest (bytes32 v) = .ok (.writeInt v) := by
  have h : word32Of (v.extractLsb' 0 8) (v.extractLsb' 8 8) (v.extractLsb' 16 8) (v.extractLsb' 24 8) = v := by
    have hv : v.toNat < 2 ^ 32 := v.isLt
    apply BitVec.eq_of_toNat_eq
    simp only [word32Of_toNat, extract_byte_toNat]
    omega
  rw [bytes32, intRequest, h]

/-- The bytes of WRITE_FLOAT's operand put together again (R63). -/
theorem floatRequest_bytes64 (x : BitVec 64) : floatRequest (bytes64 x) = .ok (.writeFloat x) := by
  have h : word64Of (x.extractLsb' 0 8) (x.extractLsb' 8 8) (x.extractLsb' 16 8) (x.extractLsb' 24 8)
      (x.extractLsb' 32 8) (x.extractLsb' 40 8) (x.extractLsb' 48 8) (x.extractLsb' 56 8) = x := by
    apply BitVec.eq_of_toNat_eq
    simp only [word64Of_toNat, extract_byte_toNat]
    omega
  rw [bytes64, floatRequest, h]

/-! ### The row of a request -/

theorem header_eq_row {op n : Byte} {m : Word} (h : m.toNat = op.toNat * 2 ^ 24 + n.toNat) : header op 0 0 n = m := by
  apply BitVec.eq_of_toNat_eq
  rw [header_toNat, h]
  bv_omega

/-- A request lies in the row of its operation code `o` and its payload count `c`. -/
theorem inRow_of_fields {op a b n : Byte} {p : List Byte} {o c : Nat} {m : Word} (lcd : Option (Byte × Byte))
    (hn : p.length = n.toNat) (ho : op.toNat = o) (hp : p.length = c) (hm : m.toNat = o * 2 ^ 24 + c) :
    RowMatch.InRow (.request (header op a b n) p) (some (m, 0xFF0000FF)) lcd :=
  RowMatch.fixed lcd hn (header_eq_row (by rw [hm, ho, ← hn, hp]))

/-- What a request with the payload its header counts decodes to (R64, R66): an operation in whose row it lies, or one of
the two rejections of an illegal request. -/
theorem decodeOp_cases {op a b n : Byte} {p : List Byte} {d : Except Reject Instr} (hn : p.length = n.toNat)
    (h : decodeOp op a b p = d) :
    (∃ i, d = .ok i ∧ RowMatch.InRow (.request (header op a b n) p) (requestRow i) (lcdRow i)) ∨
    d = .error .unassignedOp ∨ d = .error .wrongCount := by
  unfold decodeOp at h
  split at h
  case h_17 ho =>
    obtain ⟨hp, g, rfl⟩ | rfl := glyphRequest_cases h
    · exact .inl ⟨_, rfl, inRow_of_fields _ hn ho hp rfl⟩
    · exact .inr (.inr rfl)
  case h_18 ho =>
    subst h
    refine .inl ⟨_, rfl, by rwa [nField_header], _, _, rfl, ?_⟩
    rw [header_mask_op]
    exact header_eq_row (by rw [ho]; rfl)
  case h_19 ho =>
    obtain ⟨hp, v, rfl⟩ | rfl := intRequest_cases h
    · exact .inl ⟨_, rfl, inRow_of_fields _ hn ho hp rfl⟩
    · exact .inr (.inr rfl)
  case h_20 ho =>
    obtain ⟨hp, x, rfl⟩ | rfl := floatRequest_cases h
    · exact .inl ⟨_, rfl, inRow_of_fields _ hn ho hp rfl⟩
    · exact .inr (.inr rfl)
  case h_21 => exact .inr (.inl h.symm)
  all_goals
    rename_i ho
    obtain ⟨rfl, rfl⟩ | rfl := bare_cases h
    · exact .inl ⟨_, rfl, inRow_of_fields _ hn ho rfl rfl⟩
    · exact .inr (.inr rfl)

theorem decodeRequest_cases {h : Word} {p : List Byte} {d : Except Reject Instr} (hn : p.length = (nField h).toNat)
    (hd : decodeRequest h p = d) :
    (∃ i m k, d = .ok i ∧ requestRow i = some (m, k) ∧ h &&& k = m) ∨
    d = .error .unassignedOp ∨ d = .error .wrongCount := by
  rw [decodeRequest, if_pos hn] at hd
  refine (decodeOp_cases hn hd).imp_left fun ⟨i, hi, _, m, k, hrow, hm⟩ => ⟨i, m, k, hi, hrow, ?_⟩
  rwa [header_fields] at hm

theorem fields_of_mask {h m : Word} (e : h &&& 0xFF0000FF = m) : opField h = opField m ∧ nField h = nField m := by
  rw [← header_fields h, header_mask] at e
  simp [← e]

theorem opField_of_mask {h m : Word} (e : h &&& 0xFF000000 = m) : opField h = opField m := by
  rw [← header_fields h, header_mask_op] at e
  simp [← e]

/-- A request that lies in a row decodes to an operation of that row (R64). -/
theorem decodeRequest_of_row {h m k : Word} {p : List Byte} {j : Instr} (hn : p.length = (nField h).toNat)
    (hj : requestRow j = some (m, k)) (e : h &&& k = m) :
    ∃ i, decodeRequest h p = .ok i ∧ requestRow i = some (m, k) := by
  rw [decodeRequest, if_pos hn]
  cases j
  all_goals cases hj
  case writeString => rw [opField_of_mask e]; exact ⟨_, rfl, rfl⟩
  all_goals
    obtain ⟨hop, hcount⟩ := fields_of_mask e
    rw [hop]
    rw [hcount] at hn
  case createGlyph => exact ⟨_, dif_pos hn, rfl⟩
  case writeInt =>
    match p, hn with
    | [_, _, _, _], _ => exact ⟨_, rfl, rfl⟩
  case writeFloat =>
    match p, hn with
    | [_, _, _, _, _, _, _, _], _ => exact ⟨_, rfl, rfl⟩
  all_goals
    obtain rfl := List.eq_nil_of_length_eq_zero hn
    exact ⟨_, rfl, rfl⟩

/-! ### The fields an operation reads (R65) -/

theorem decodeOp_ignores_b {op : Byte} (h6 : op ≠ 0x06) (a b b' : Byte) (p : List Byte) :
    decodeOp op a b p = decodeOp op a b' p := by
  unfold decodeOp
  split
  case h_6 ho => exact absurd (BitVec.eq_of_toNat_eq ho) h6
  all_goals rfl

theorem decodeOp_ignores_a {op : Byte} (h2 : op ≠ 0x02) (h3 : op ≠ 0x03) (h6 : op ≠ 0x06) (h11 : op ≠ 0x11)
    (a a' b : Byte) (p : List Byte) : decodeOp op a b p = decodeOp op a' b p := by
  unfold decodeOp
  split
  case h_2 ho => exact absurd (BitVec.eq_of_toNat_eq ho) h2
  case h_3 ho => exact absurd (BitVec.eq_of_toNat_eq ho) h3
  case h_6 ho => exact absurd (BitVec.eq_of_toNat_eq ho) h6
  case h_17 ho => exact absurd (BitVec.eq_of_toNat_eq ho) h11
  all_goals rfl

/-- A header passes its operation code and its two operand bytes to the decoder. -/
theorem decodeRequest_header_congr {op a b a' b' : Byte} (n : Byte) {p : List Byte}
    (h : decodeOp op a b p = decodeOp op a' b' p) :
    decodeRequest (header op a b n) p = decodeRequest (header op a' b' n) p := by
  simp only [decodeRequest, nField_header, opField_header, aField_header, bField_header, h]

end Sys2Proof.Proofs.RequestDecoder
end

section
/-! The decoder of LCD command bytes and the class bytes themselves (spec 30_encoding R51 to R58). -/

namespace Sys2Proof.Proofs.LcdDecoder

open Sys2Proof Sys2Proof.Machine

theorem decodeOffer_command {c : Byte} {i : Instr} (h : decodeLcd c = some i) : decodeOffer (.command c) = .ok i := by
  rw [decodeOffer, h]

/-- A byte that decodes to a class lies in the class's row, whose `match` is the byte's top set bit; the class's fields,
put back at their places, give the byte (R52). -/
theorem decodeLcd_some {c : Byte} {i : Instr} (h : decodeLcd c = some i) :
    ∃ m k, lcdRow i = some (m, k) ∧ c &&& k = m ∧ m.toNat = 2 ^ c.toNat.log2 ∧ encode i = .command c := by
  unfold decodeLcd at h
  repeat' split at h
  all_goals cases h
  all_goals exact ⟨_, _, rfl, by revert c; decide, by revert c; decide, by revert c; decide⟩

theorem decodeLcd_of_ne_zero {c : Byte} (h : c ≠ 0) : ∃ i, decodeLcd c = some i :=
  Option.isSome_iff_exists.1 (by revert c; decide)

/-! ### The class bytes as the OR of the class constant and the field bits (R52 to R58) -/

theorem lcdHomeByte_eq : ∀ x, lcdHomeByte x = 0x02 ||| bif x then 0x01 else 0x00 := by decide

theorem lcdEntryModeByte_eq : ∀ x y, lcdEntryModeByte x y =
    0x04 ||| (bif x then 0x02 else 0x00) ||| bif y then 0x01 else 0x00 := by decide

theorem lcdDisplayCtrlByte_eq : ∀ x y z, lcdDisplayCtrlByte x y z =
    0x08 ||| (bif x then 0x04 else 0x00) ||| (bif y then 0x02 else 0x00) ||| bif z then 0x01 else 0x00 := by decide

theorem lcdShiftByte_eq : ∀ x y q, lcdShiftByte x y q =
    0x10 ||| (bif x then 0x08 else 0x00) ||| (bif y then 0x04 else 0x00) ||| q.setWidth 8 := by decide

theorem lcdFunctionByte_eq : ∀ x y z q, lcdFunctionByte x y z q =
    0x20 ||| (bif x then 0x10 else 0x00) ||| (bif y then 0x08 else 0x00) ||| (bif z then 0x04 else 0x00) |||
      q.setWidth 8 := by decide

theorem lcdSetCgramByte_eq (a : BitVec 6) : lcdSetCgramByte a = 0x40 ||| a.setWidth 8 := by
  revert a; decide

theorem lcdSetDdramByte_eq (a : BitVec 7) : lcdSetDdramByte a = 0x80 ||| a.setWidth 8 := by
  revert a; decide

end Sys2Proof.Proofs.LcdDecoder
end

section
/-! The `transfers` view of the block's traces (spec 00_scope R8), and the closed list of what an operation sends by itself
(30_encoding R61). -/

namespace Sys2Proof.Proofs.SentView

open Sys2Proof Sys2Proof.Machine Sys2Proof.Claims Sys2Proof.Proofs.Wire
open Sys2Proof.Proofs.PositionMap Sys2Proof.Proofs.OperationEffect

/-- Read from low `E` with no half byte held, the view of `m` is `xs`, and it is in such a state again behind `m`. -/
def Sends (m : List MicroOp) (xs : List Sent) : Prop :=
  ∀ d r t, ∃ d' r', transfersFrom d r false .none (m ++ t) = xs ++ transfersFrom d' r' false .none t

theorem Sends.transfers_eq {m : List MicroOp} {xs : List Sent} (h : Sends m xs) : transfers m = xs := by
  obtain ⟨d, r, e⟩ := h 0 false []
  simpa [transfers, transfersFrom] using e

theorem Sends.append {m n : List MicroOp} {xs ys : List Sent} (hm : Sends m xs) (hn : Sends n ys) :
    Sends (m ++ n) (xs ++ ys) := by
  intro d r t
  obtain ⟨d₁, r₁, e₁⟩ := hm d r (n ++ t)
  obtain ⟨d₂, r₂, e₂⟩ := hn d₁ r₁ t
  exact ⟨d₂, r₂, by rw [List.append_assoc, e₁, e₂, List.append_assoc]⟩

theorem sends_nil : Sends [] [] := fun d r _ => ⟨d, r, rfl⟩

theorem sends_wait (t : Nat) : Sends [.w t] [] := fun d r _ => ⟨d, r, rfl⟩

theorem sends_singleNibble (P : Params) (v : Byte) (t : Nat) :
    Sends (singleNibble P v t) [.nibble false (highNibble v)] := fun _ _ _ => ⟨0, false, rfl⟩

/-- The two halves of a byte make the byte (R82). -/
theorem nibbles_append (v : Byte) : v.extractLsb' 4 4 ++ v.extractLsb' 0 4 = v := by revert v; decide

theorem sends_sendByte (P : Params) (v : Byte) (f : Bool) : Sends (sendByte P v f) [.byte f v] := by
  intro d r t
  refine ⟨0, f, ?_⟩
  rw [sendByte_eq_byteTrace]
  exact congrArg (fun u => Sent.byte f u :: transfersFrom 0 f false .none t) (nibbles_append v)

theorem sends_sendCommand (P : Params) (v : Byte) : Sends (sendCommand P v) [.byte false v] :=
  (sends_sendByte P v false).append (sends_wait _)

theorem sends_sendText (P : Params) (p : List Byte) : Sends (sendText P p) (p.map (.byte true)) := by
  induction p with
  | nil => exact sends_nil
  | cons v p ih => exact (sends_sendByte P v true).append ih

theorem sends_priming (P : Params) :
    Sends (priming P) [.nibble false 3, .nibble false 3, .nibble false 3, .nibble false 2] :=
  ((((sends_wait _).append (sends_singleNibble P _ _)).append (sends_singleNibble P _ _)).append
    (sends_singleNibble P _ _)).append (sends_singleNibble P _ _)

/-- INIT's micro-operations: the priming, then six commands (R100). -/
theorem emitted_initItems (P : Params) (dc : Byte) : emitted (initItems P dc) =
    priming P ++ sendCommand P functionSetCmd ++ sendCommand P (displayControlCmd (initDC1 dc)) ++
      sendCommand P homeCmd ++ sendCommand P clearCmd ++ sendCommand P (displayControlCmd (initDC2 dc)) ++
      sendCommand P (displayControlCmd (initDC3 dc)) := by
  simp [initItems]

theorem sends_initItems (P : Params) (dc : Byte) : Sends (emitted (initItems P dc))
    ([.nibble false 3, .nibble false 3, .nibble false 3, .nibble false 2] ++
      [functionSetCmd, displayControlCmd (initDC1 dc), homeCmd, clearCmd, displayControlCmd (initDC2 dc),
        displayControlCmd (initDC3 dc)].map (.byte false)) := by
  rw [emitted_initItems]
  have c := sends_sendCommand P
  exact ((((((sends_priming P).append (c _)).append (c _)).append (c _)).append (c _)).append (c _)).append (c _)

/-! ### The closed list -/

/-- What R61 lets an operation send. -/
def Listed (i : Instr) (x : Sent) : Prop :=
  match x with
  | .byte true _ => sendsData i = true
  | .byte false v => v ∈ ownCommands i
  | .nibble r d => i = .init ∧ r = false ∧ (d = 0x3 ∨ d = 0x2)

theorem Sends.listed {i : Instr} {m : List MicroOp} {xs : List Sent} (h : Sends m xs) (hx : ∀ x ∈ xs, Listed i x) :
    ∀ x ∈ transfers m, Listed i x := by
  rwa [h.transfers_eq]

section
variable {P : Params} {i : Instr}

theorem listed_command {v : Byte} (h : v ∈ ownCommands i) : ∀ x ∈ transfers (sendCommand P v), Listed i x :=
  (sends_sendCommand P v).listed (List.forall_mem_singleton.2 h)

theorem listed_text (h : sendsData i = true) (p : List Byte) : ∀ x ∈ transfers (sendText P p), Listed i x :=
  (sends_sendText P p).listed (List.forall_mem_map.2 fun _ _ => h)

end

theorem displayControlCmd_mem : ∀ dc : Byte, dc.toNat ≤ 7 → displayControlCmd dc ∈ displayControls := by decide

theorem initDC_legal {dc : Byte} (h : dc.toNat ≤ 7) :
    (initDC1 dc).toNat ≤ 7 ∧ (initDC2 dc).toNat ≤ 7 ∧ (initDC3 dc).toNat ≤ 7 := by
  revert dc; decide

theorem listed_init (P : Params) {dc : Byte} (h : dc.toNat ≤ 7) :
    ∀ x ∈ transfers (emitted (initItems P dc)), Listed .init x := by
  obtain ⟨h1, h2, h3⟩ := initDC_legal h
  refine (sends_initItems P dc).listed ?_
  have control {v : Byte} (hv : v.toNat ≤ 7) : displayControlCmd v ∈ ownCommands .init :=
    List.mem_append_right _ (displayControlCmd_mem v hv)
  have fixed : functionSetCmd ∈ ownCommands .init ∧ homeCmd ∈ ownCommands .init ∧ clearCmd ∈ ownCommands .init := by
    decide
  simp [Listed, control h1, control h2, control h3, fixed]

theorem setDdramCmd_mem {col row : Byte} {a : BitVec 7} (hc : col.toNat < 16) (h : cursorAddress col row = some a) :
    setDdramCmd a ∈ ownCommands (.setCursor col row) := by
  by_cases h0 : row = 0
  · subst h0
    cases h
    revert col; decide
  · by_cases h1 : row = 1
    · subst h1
      cases h
      revert col; decide
    · rw [cursorAddress_other col h0 h1] at h
      cases h

theorem setCgramCmd_mem : ∀ slot : Byte, setCgramCmd (glyphAddress slot) ∈
    [0x40, 0x48, 0x50, 0x58, 0x60, 0x68, 0x70, 0x78] := by decide

theorem entryModeCmd_of_legal : ∀ dm : Byte, dm = 0x00 ∨ dm = 0x02 →
    entryModeCmd (setBits dm dmLeftToRight) = 0x06 ∧ entryModeCmd (clearBits dm dmLeftToRight) = 0x04 := by decide

theorem listed_program {P : Params} {i : Instr} {dc dm : Byte} {l : List Item} (hdc : dc.toNat ≤ 7)
    (hdm : dm = 0x00 ∨ dm = 0x02) (hi : sendsRaw i = false) (h : program P i dc dm = .ok l) :
    ∀ x ∈ transfers (emitted l), Listed i x := by
  obtain ⟨hDisplayOn, hDisplayOff, hCursorOn, hCursorOff, hBlinkOn, hBlinkOff⟩ := toggleDC_legal dc hdc
  obtain ⟨hLeftToRight, hRightToLeft⟩ := entryModeCmd_of_legal dm hdm
  cases i
  case init => cases h; exact listed_init P hdc
  case sendData v => cases h; exact (sends_sendByte P v true).listed (List.forall_mem_singleton.2 rfl)
  case setCursor col row =>
    simp only [program, progSetCursor] at h
    split at h
    case isTrue hc =>
      split at h
      case h_1 a ha =>
        cases h
        rw [emitted_emits]
        exact listed_command (setDdramCmd_mem (columnInRange_iff.1 hc) ha)
      case h_2 => cases h
    case isFalse => cases h; exact sends_nil.listed nofun
  case displayOn => cases h; rw [emitted_toggleDC]; exact listed_command (displayControlCmd_mem _ hDisplayOn)
  case displayOff => cases h; rw [emitted_toggleDC]; exact listed_command (displayControlCmd_mem _ hDisplayOff)
  case cursorOn => cases h; rw [emitted_toggleDC]; exact listed_command (displayControlCmd_mem _ hCursorOn)
  case cursorOff => cases h; rw [emitted_toggleDC]; exact listed_command (displayControlCmd_mem _ hCursorOff)
  case blinkOn => cases h; rw [emitted_toggleDC]; exact listed_command (displayControlCmd_mem _ hBlinkOn)
  case blinkOff => cases h; rw [emitted_toggleDC]; exact listed_command (displayControlCmd_mem _ hBlinkOff)
  case leftToRight => cases h; rw [emitted_toggleDM]; exact listed_command (List.mem_singleton.2 hLeftToRight)
  case rightToLeft => cases h; rw [emitted_toggleDM]; exact listed_command (List.mem_singleton.2 hRightToLeft)
  case createGlyph slot g =>
    cases h
    rw [emitted_emits]
    refine ((sends_sendCommand P _).append (sends_sendText P _)).listed ?_
    exact List.forall_mem_cons.2 ⟨setCgramCmd_mem slot, List.forall_mem_map.2 fun _ _ => rfl⟩
  case writeString | writeInt => cases h; rw [emitted_emits]; exact listed_text rfl _
  case writeFloat x =>
    simp only [program, progWriteFloat] at h
    split at h
    · cases h
    · split at h
      · cases h
      · cases h; rw [emitted_emits]; exact listed_text rfl _
  case clear | home | scrollLeft | scrollRight =>
    cases h; rw [emitted_emits]; exact listed_command (List.mem_singleton.2 rfl)
  all_goals cases hi

end Sys2Proof.Proofs.SentView
end

section
/-! The operations as requests issued one by one (spec 30_encoding R68): a program that is a command, or begins with one,
is SEND_CMD of it and then the rest. -/

namespace Sys2Proof.Proofs.Expansion

open Sys2Proof Sys2Proof.Machine Sys2Proof.Claims Sys2Proof.Proofs.PositionMap

/-- A `DC` toggle is the register write and then SEND_CMD of the whole mask (R110). -/
theorem complete_toggleDC (v : Byte) (s : State) :
    complete (.ok (toggleDC params v)) s = exec (.sendCmd (0x08 ||| v)) { s with dc := v } := rfl

/-- A `DM` toggle is the register write and then SEND_CMD of the whole mask (R110). -/
theorem complete_toggleDM (v : Byte) (s : State) :
    complete (.ok (toggleDM params v)) s = exec (.sendCmd (0x04 ||| v)) { s with dm := v } := rfl

/-- Micro-operations of two requests in one request are the two requests one after the other. -/
theorem complete_emits_append (l m : List MicroOp) (s : State) :
    complete (.ok (emits (l ++ m))) s = andThen (complete (.ok (emits l)) s) (complete (.ok (emits m))) := by
  rw [emits_append, complete_ok, runItems_append]
  rfl

theorem exec_createGlyph (slot : Byte) (g : Vector Byte 8) (s : State) :
    exec (.createGlyph slot g) s =
      andThen (exec (.sendCmd (setCgramCmd (glyphAddress slot))) s) (exec (.writeString g.toList)) :=
  complete_emits_append _ _ s

theorem exec_writeString_cons (v : Byte) (p : List Byte) (s : State) :
    exec (.writeString (v :: p)) s = andThen (exec (.sendData v) s) (exec (.writeString p)) :=
  complete_emits_append (sendDatum params v) (sendText params p) s

theorem exec_setCursor_of_address {col row : Byte} {a : BitVec 7} (hc : col.toNat < 16)
    (ha : cursorAddress col row = some a) (s : State) :
    exec (.setCursor col row) s = exec (.sendCmd (setDdramCmd a)) s := by
  rw [exec_eq_complete, program, progSetCursor, if_pos (columnInRange_iff.2 hc), ha]
  rfl

theorem exec_writeFloat_of_text {x : BitVec 64} {t : List Byte} (ht : params.fmtFloat x = some t) (hl : t.length ≤ 31)
    (s : State) : exec (.writeFloat x) s = exec (.writeString t) s := by
  rw [exec_eq_complete, program, progWriteFloat, ht]
  exact congrArg (complete · s) (if_neg (Nat.not_lt.2 hl))

theorem setDdramCmd_zero : ∀ col : Byte, col.toNat < 16 → setDdramCmd (col.setWidth 7) = 0x80 ||| (0x00 + col) := by
  decide

theorem setDdramCmd_one : ∀ col : Byte, col.toNat < 16 →
    setDdramCmd (0x40#7 + col.setWidth 7) = 0x80 ||| (0x40 + col) := by decide

theorem setCgramCmd_glyphAddress : ∀ slot : Byte, setCgramCmd (glyphAddress slot) = 0x40 ||| ((slot &&& 0x7) <<< 3) := by
  decide

end Sys2Proof.Proofs.Expansion
end

section
/-! The obligations of the family 30_encoding: the decoder and the encoder, illegal requests, the class bytes, the
expansions and the closed list (spec 30_encoding R50 to R68). -/

namespace Sys2Proof.Proofs.Encoding

open Sys2Proof Sys2Proof.Machine Sys2Proof.Claims
open Sys2Proof.Proofs.SequencerRun Sys2Proof.Proofs.Wire Sys2Proof.Proofs.PositionMap
open Sys2Proof.Proofs.RequestDecoder Sys2Proof.Proofs.LcdDecoder Sys2Proof.Proofs.SentView Sys2Proof.Proofs.Expansion

/-! ### Decoding and encoding -/

/-- Settles O6: an operand-free or header-operand request by its code, a payload by putting its bytes together again, a
class byte by its top set bit. -/
theorem decodeOfEncodeIsIdentity : Obligations.DecodeOfEncodeIsIdentity := by
  intro i hi
  cases i
  case createGlyph slot g =>
    exact (decodeRequest_header _ _ _ _ _ (by simp)).trans (glyphRequest_toList slot g)
  case writeString p =>
    have hp : p.length ≤ 255 := of_decide_eq_true hi
    exact decodeRequest_header _ _ _ _ _ (by rw [BitVec.toNat_ofNat]; omega)
  case writeInt v => exact (decodeRequest_header _ _ _ _ _ rfl).trans (intRequest_bytes32 v)
  case writeFloat x => exact (decodeRequest_header _ _ _ _ _ rfl).trans (floatRequest_bytes64 x)
  case lcdClear => exact decodeOffer_command rfl
  case lcdHome x => exact decodeOffer_command (by revert x; decide)
  case lcdEntryMode x y => exact decodeOffer_command (by revert x y; decide)
  case lcdDisplayCtrl x y z => exact decodeOffer_command (by revert x y z; decide)
  case lcdShift x y q => exact decodeOffer_command (by revert x y q; decide)
  case lcdFunction x y z q => exact decodeOffer_command (by revert x y z q; decide)
  case lcdSetCgram a => exact decodeOffer_command (by revert a; decide)
  case lcdSetDdram a => exact decodeOffer_command (by revert a; decide)
  all_goals exact decodeRequest_header _ _ _ _ _ rfl

/-- Settles O7: the decoder's answers, each with its row, and each row's own operation. -/
theorem requestIsOperationOfMatchingRow : Obligations.RequestIsOperationOfMatchingRow := by
  intro h p hn
  refine ⟨fun i hi => ?_, fun j m k hj e => decodeRequest_of_row hn hj e⟩
  obtain ⟨_, m, k, hd, hrow⟩ | hd | hd := decodeRequest_cases hn hi
  · cases hd; exact ⟨m, k, hrow⟩
  · cases hd
  · cases hd

/-- Settles O8, by the operation codes at which the decoder reads `a` or `b`. -/
theorem unusedHeaderFieldsAreIgnored : Obligations.UnusedHeaderFieldsAreIgnored := by
  intro op a b a' b' n p
  exact ⟨fun h6 => decodeRequest_header_congr n (decodeOp_ignores_b h6 a b b' p), fun h2 h3 h6 h11 =>
    decodeRequest_header_congr n
      ((decodeOp_ignores_a h2 h3 h6 h11 a a' b p).trans (decodeOp_ignores_b h6 a' b b' p))⟩

/-- Settles O9: class by class, the row of the byte and the byte the class's fields give back. -/
theorem lcdClassIsTopSetBit : Obligations.LcdClassIsTopSetBit := by
  refine ⟨fun c hc => ?_, rfl⟩
  obtain ⟨i, hi⟩ := decodeLcd_of_ne_zero hc
  obtain ⟨m, k, hrow⟩ := decodeLcd_some hi
  exact ⟨i, m, k, decodeOffer_command hi, hrow⟩

/-- Settles O10, by the values of the two operands put together. -/
theorem payloadOperandsAreLittleEndian : Obligations.PayloadOperandsAreLittleEndian := by
  constructor
  · intro p0 p1 p2 p3
    exact ⟨_, rfl, by rw [word32Of_toNat]; omega⟩
  · intro p0 p1 p2 p3 p4 p5 p6 p7
    exact ⟨_, rfl, by rw [word64Of_toNat]; omega⟩

/-- Settles O11: each word as the decoder reads it. -/
theorem specWordsDecodeAsWritten : Obligations.SpecWordsDecodeAsWritten :=
  ⟨rfl, rfl, rfl, rfl, rfl, rfl, rfl, rfl, rfl⟩

/-- Settles O13: a request in no row decodes to one of the two rejections, and `serve` drops it for either. -/
theorem illegalRequestIsCompleteNoOp : Obligations.IllegalRequestIsCompleteNoOp := by
  intro s h p rest hr hb hp hn hno
  rw [step_serve hr hb hp, serve, decodeOffer]
  obtain ⟨i, m, k, -, hrow, hm⟩ | hd | hd := decodeRequest_cases hn rfl
  · exact absurd hm (hno i m k hrow)
  · rw [hd]
  · rw [hd]

/-! ### What the block sends -/

/-- Settles O25: each class is one command, whose byte is the OR of its parts. -/
theorem lcdCommandsAreSentAsBytes : Obligations.LcdCommandsAreSentAsBytes := by
  intro s x y z q a6 a7
  rw [← lcdHomeByte_eq, ← lcdEntryModeByte_eq, ← lcdDisplayCtrlByte_eq, ← lcdShiftByte_eq, ← lcdFunctionByte_eq,
    ← lcdSetCgramByte_eq, ← lcdSetDdramByte_eq]
  exact ⟨complete_sendCommand s _, complete_sendCommand s _, complete_sendCommand s _, complete_sendCommand s _,
    complete_sendCommand s _, complete_sendCommand s _, complete_sendCommand s _, complete_sendCommand s _⟩

/-- Settles O44, row by row of the table. -/
theorem expansionsAgreeWithRequestsOneByOne : Obligations.ExpansionsAgreeWithRequestsOneByOne := by
  intro s slot v col g p n x
  refine ⟨rfl, rfl, fun hc => ⟨?_, ?_⟩, fun hc row => exec_setCursor_of_column_out row s hc,
    complete_toggleDC _ s, complete_toggleDC _ s, complete_toggleDC _ s, complete_toggleDC _ s, complete_toggleDC _ s,
    complete_toggleDC _ s, complete_toggleDM _ s, complete_toggleDM _ s, rfl, rfl, ?_, rfl,
    exec_writeString_cons v p s, rfl, fun t ht hl => exec_writeFloat_of_text ht hl s⟩
  · rw [exec_setCursor_of_address hc (cursorAddress_zero col), setDdramCmd_zero col hc]
  · rw [exec_setCursor_of_address hc (cursorAddress_one col), setDdramCmd_one col hc]
  · rw [exec_createGlyph, setCgramCmd_glyphAddress]

/-- Settles O51, by the view of each operation's trace. -/
theorem ownCommandsAreTheClosedList : Obligations.OwnCommandsAreTheClosedList := by
  intro P i dc dm l hdc hdm hi h x hx
  have hlisted := listed_program hdc hdm hi h x hx
  rcases x with ⟨r, d⟩ | ⟨_ | _, v⟩ <;> exact hlisted

end Sys2Proof.Proofs.Encoding
end

section
/-! What a receiver and a clock read off the transfers of 95_test_vectors (spec 00_scope R8, 70_reset_and_hazards R193):
the nibbles `latched` from them, the `bytes` these join to, and the requested times. -/

namespace Sys2Proof.Proofs.TransferViews

open Sys2Proof Sys2Proof.Machine Sys2Proof.Claims Sys2Proof.Proofs.Wire Sys2Proof.Proofs.SentView

/-- The transfer ignores the low four bits of its argument (R35). -/
@[simp] theorem highNibble_and_F0 : ∀ v : Byte, highNibble (v &&& 0xF0) = highNibble v := by decide

theorem nibble_and_F0 (P : Params) (v : Byte) (f : Bool) : nibble P (v &&& 0xF0) f = nibble P v f := by
  rw [nibble_eq_N, highNibble_and_F0, nibble_eq_N]

/-- One entry is latched from a transfer, and the lines are at rest behind it. -/
theorem latchedFrom_N_append (P : Params) (n d : Nibble) (f r : Bool) (t : List MicroOp) :
    latchedFrom d r false (N P n f ++ t) = (f, n) :: latchedFrom 0 f false t := rfl

theorem latched_N (P : Params) (n : Nibble) (f : Bool) : latched (N P n f) = [(f, n)] :=
  latchedFrom_N_append P n 0 f false []

theorem latchedFrom_byteTrace_append (P : Params) (v : Byte) (d : Nibble) (f r : Bool) (t : List MicroOp) :
    latchedFrom d r false (byteTrace P v f ++ t) =
      (f, v.extractLsb' 4 4) :: (f, v.extractLsb' 0 4) :: latchedFrom 0 f false t := by
  rw [byteTrace, List.append_assoc, latchedFrom_N_append, latchedFrom_N_append]

theorem latched_byteTrace (P : Params) (v : Byte) (f : Bool) :
    latched (byteTrace P v f) = [(f, v.extractLsb' 4 4), (f, v.extractLsb' 0 4)] := by
  rw [latched, ← List.append_nil (byteTrace P v f), latchedFrom_byteTrace_append]; rfl

/-- A wait behind a byte latches nothing (R8). -/
theorem latched_commandTrace (P : Params) (v : Byte) :
    latched (commandTrace P v) = [(false, v.extractLsb' 4 4), (false, v.extractLsb' 0 4)] :=
  latchedFrom_byteTrace_append P v 0 false false _

/-- The two entries of a byte join to the byte (R8, R82). -/
theorem pairUp_halves (v : Byte) (f : Bool) : pairUp [(f, v.extractLsb' 4 4), (f, v.extractLsb' 0 4)] = [(f, v)] := by
  simp only [pairUp, nibbles_append]

theorem bytes_byteTrace (P : Params) (v : Byte) (f : Bool) : bytes (byteTrace P v f) = [(f, v)] := by
  rw [bytes, latched_byteTrace, pairUp_halves]

theorem bytes_commandTrace (P : Params) (v : Byte) : bytes (commandTrace P v) = [(false, v)] := by
  rw [bytes, latched_commandTrace, pairUp_halves]

@[simp] theorem requested_append (l m : List MicroOp) : requested (l ++ m) = requested l + requested m := by
  induction l with
  | nil => simp [requested]
  | cons a l ih => cases a <;> simp [requested, ih, Nat.add_assoc]

theorem requested_N (P : Params) (n : Nibble) (f : Bool) :
    requested (N P n f) = P.tELow + P.tEHigh + P.tNibble := by
  simp [N, requested, Nat.add_assoc]

theorem requested_byteTrace (P : Params) (v : Byte) (f : Bool) :
    requested (byteTrace P v f) = 2 * (P.tELow + P.tEHigh + P.tNibble) := by
  rw [byteTrace, requested_append, requested_N, requested_N, Nat.two_mul]

theorem requested_commandTrace (P : Params) (v : Byte) : requested (commandTrace P v) =
    2 * (P.tELow + P.tEHigh + P.tNibble) + if v.toNat < P.longThreshold.toNat then P.tLong else P.tShort := by
  rw [commandTrace, requested_append, requested_byteTrace]; rfl

end Sys2Proof.Proofs.TransferViews
end

section
/-! Well-timed traces (spec 40_transfer_primitives R80, R81, 70_reset_and_hazards R184): the transfers are well timed, so
are lists of them, and so is every item list of the block. -/

namespace Sys2Proof.Proofs.WellTimed

open Sys2Proof Sys2Proof.Machine Sys2Proof.Claims Sys2Proof.Safety Sys2Proof.Proofs.Wire Sys2Proof.Proofs.SentView

theorem wellTimed_append {P : Params} {t u : List MicroOp} (ht : wellTimed P t = true) (hu : wellTimed P u = true) :
    wellTimed P (t ++ u) = true := by
  fun_induction wellTimed P t with
  | case1 => exact hu
  | case2 _ t ih => exact ih ht
  | case3 n f a b z c t ih =>
    obtain ⟨hwaits, htail⟩ := Bool.and_eq_true_iff.mp ht
    exact Bool.and_eq_true_iff.mpr ⟨hwaits, ih htail⟩
  | case4 => cases ht

theorem wellTimed_wait (P : Params) (t : Nat) : wellTimed P [.w t] = true := rfl

/-- The waits of a transfer are just long enough. -/
theorem wellTimed_nibble (P : Params) (v : Byte) (f : Bool) : wellTimed P (nibble P v f) = true := by
  simp [nibble, pulse, wellTimed]

theorem wellTimed_sendByte (P : Params) (v : Byte) (f : Bool) : wellTimed P (sendByte P v f) = true :=
  wellTimed_append (wellTimed_nibble P v f) (wellTimed_nibble P _ f)

theorem wellTimed_sendCommand (P : Params) (v : Byte) : wellTimed P (sendCommand P v) = true :=
  wellTimed_append (wellTimed_sendByte P v false) (wellTimed_wait P _)

theorem wellTimed_sendText (P : Params) (p : List Byte) : wellTimed P (sendText P p) = true := by
  induction p with
  | nil => rfl
  | cons v p ih => exact wellTimed_append (wellTimed_sendByte P v true) ih

theorem wellTimed_singleNibble (P : Params) (v : Byte) (t : Nat) : wellTimed P (singleNibble P v t) = true :=
  wellTimed_append (wellTimed_nibble P v false) (wellTimed_wait P t)

theorem wellTimed_priming (P : Params) : wellTimed P (priming P) = true := by
  have hs := wellTimed_singleNibble P
  exact wellTimed_append (wellTimed_append (wellTimed_append (wellTimed_append (wellTimed_wait P _) (hs _ _)) (hs _ _))
    (hs _ _)) (hs _ _)

theorem wellTimed_initItems (P : Params) (dc : Byte) : wellTimed P (emitted (initItems P dc)) = true := by
  rw [emitted_initItems]
  have hc := wellTimed_sendCommand P
  exact wellTimed_append (wellTimed_append (wellTimed_append (wellTimed_append (wellTimed_append (wellTimed_append
    (wellTimed_priming P) (hc _)) (hc _)) (hc _)) (hc _)) (hc _)) (hc _)

theorem wellTimed_of_programShape {P : Params} {dc dm : Byte} {l : List Item} (h : ProgramShape P dc dm l) :
    wellTimed P (emitted l) = true := by
  cases h with
  | command v => rw [emitted_emits]; exact wellTimed_sendCommand P v
  | text p => rw [emitted_emits]; exact wellTimed_sendText P p
  | toggleDC v => rw [toggleDC, emitted_setDC, emitted_emits]; exact wellTimed_sendCommand P _
  | toggleDM v => rw [toggleDM, emitted_setDM, emitted_emits]; exact wellTimed_sendCommand P _
  | glyph v p => rw [emitted_emits]; exact wellTimed_append (wellTimed_sendCommand P v) (wellTimed_sendText P p)
  | init => exact wellTimed_initItems P dc

/-- Read from low `E`, a well-timed trace latches once a pulse, whatever the lines are at its start. -/
theorem length_latchedFrom {P : Params} {t : List MicroOp} (ht : wellTimed P t = true) (d : Nibble) (r : Bool) :
    (latchedFrom d r false t).length = t.count (.e true) := by
  fun_induction wellTimed P t generalizing d r with
  | case1 => rfl
  | case2 _ t ih => simpa [latchedFrom] using ih ht d r
  | case3 n f a b z c t ih =>
    obtain ⟨-, htail⟩ := Bool.and_eq_true_iff.mp ht
    simpa [latchedFrom] using ih htail z f
  | case4 => cases ht

end Sys2Proof.Proofs.WellTimed
end

section
/-! The obligations of the family 40_transfer_primitives: the nibble transfer, the byte, the two public entry points, the
latency class, and the timing of every trace (spec 40_transfer_primitives R80 to R85). -/

namespace Sys2Proof.Proofs.TransferPrimitives

open Sys2Proof Sys2Proof.Machine Sys2Proof.Claims Sys2Proof.Safety
open Sys2Proof.Proofs.Wire Sys2Proof.Proofs.TransferViews Sys2Proof.Proofs.WellTimed

/-- Settles O20: the transfer is the nine micro-operations of 95_test_vectors, run one after another. -/
theorem nibbleTransferIsOnePulse : Obligations.NibbleTransferIsOnePulse := by
  intro P v f s
  exact ⟨nibble_eq_N P v f, nibble_and_F0 P v f, rfl, latched_N P _ f, requested_N P _ f, runItems_nibble P v f s⟩

/-- Settles O21: both masks keep the driven half, and the second half is the low nibble of `v`. -/
theorem byteIsTwoNibblesHighFirst : Obligations.ByteIsTwoNibblesHighFirst := by
  intro P v f
  refine ⟨?_, sendByte_eq_byteTrace P v f, rfl, ?_, ?_, ?_⟩
  · rw [nibble_and_F0, nibble_and_F0]; rfl
  · rw [sendByte_eq_byteTrace, requested_byteTrace]; rfl
  · rw [sendByte_eq_byteTrace, latched_byteTrace]
  · rw [sendByte_eq_byteTrace, bytes_byteTrace]

/-- Settles O22: SEND_CMD's program is one command, whose time is that of its byte and the wait of its class. -/
theorem sendCommandTransmitsByteAndWaits : Obligations.SendCommandTransmitsByteAndWaits := by
  intro v b s
  refine ⟨decodeRequest_header _ _ _ _ _ rfl, exec_sendCmd v s, rfl, bytes_commandTrace params v, ?_⟩
  rw [requested_commandTrace]
  split <;> rfl

theorem latency_eq_long_iff {P : Params} {v : Byte} : latency P v = .long ↔ v.toNat < P.longThreshold.toNat := by
  by_cases h : v.toNat < P.longThreshold.toNat <;> simp [latency, h]

/-- Settles O23: at the defaults the threshold is 4. -/
theorem latencyClassIsNumericComparison : Obligations.LatencyClassIsNumericComparison := by
  refine ⟨fun v => ?_, fun P v => ⟨latency_eq_long_iff, fun h => ?_, fun h => ?_⟩⟩
  · rw [classWait_eq]
    exact if_congr Nat.lt_succ_iff rfl rfl
  · rw [classWait, h]
  · rw [classWait, h]

theorem exec_sendData (v : Byte) (s : State) : exec (.sendData v) s =
    .next { s with data := 0, e := false, rs := true, trace := s.trace ++ byteTrace params v true } := by
  rw [exec_eq_complete, program, progSendData, complete_ok, runItems_sendDatum, sendDatum, sendByte_eq_byteTrace]; rfl

/-- Settles O24: SEND_DATA's program is one byte and no wait behind it. -/
theorem sendDataTransmitsByte : Obligations.SendDataTransmitsByte := by
  intro v b s
  exact ⟨decodeRequest_header _ _ _ _ _ rfl, exec_sendData v s, rfl, bytes_byteTrace params v true,
    requested_byteTrace params v true⟩

/-- Settles O52, by the six forms of an item list. -/
theorem everyTraceIsWellTimed : Obligations.EveryTraceIsWellTimed :=
  fun _ _ _ _ _ h => wellTimed_of_programShape (program_shape h)

/-- Settles O53: the view starts with `E` low. -/
theorem oneLatchedEntryPerPulse : Obligations.OneLatchedEntryPerPulse :=
  fun _ _ h => length_latchedFrom h 0 false

end Sys2Proof.Proofs.TransferPrimitives
end

section
/-! INIT's trace as 95_test_vectors writes it down, and the masks on the way (spec 41_init_sequence R100 to R105): the
number of its items and micro-operations, and its requested time. -/

namespace Sys2Proof.Proofs.InitTrace

open Sys2Proof Sys2Proof.Machine Sys2Proof.Claims
open Sys2Proof.Proofs.Wire Sys2Proof.Proofs.SentView Sys2Proof.Proofs.TransferViews

/-! ### The masks -/

/-- Cursor and blink cleared one after the other are cleared together (R100). -/
theorem initDC3_eq (dc : Byte) : initDC3 dc = (dc ||| 0x04) &&& 0xFC := BitVec.and_assoc ..

theorem initDC3_of_legal : ∀ dc : Byte, dc.toNat ≤ 7 → initDC3 dc = 0x04 := by decide

/-! ### The trace -/

/-- The priming of 95_test_vectors: four nibbles and the wait of each (R102, R103). -/
theorem priming_eq_nibbles (P : Params) : priming P =
    [.w P.tPwr] ++ N P 3 false ++ [.w P.tPrime0] ++ N P 3 false ++ [.w P.tPrime1] ++ N P 3 false ++ [.w P.tPrime2] ++
      N P 2 false ++ [.w P.tShort] := rfl

theorem emitted_initItems_eq_initTrace (P : Params) (dc : Byte) : emitted (initItems P dc) = initTrace P dc := by
  simp only [emitted_initItems, priming_eq_nibbles, sendCommand_eq_commandTrace, initDC3_eq]
  rfl

/-- INIT's trace is the priming and then six commands (R100). -/
theorem initTrace_eq_priming_append (P : Params) (dc : Byte) : initTrace P dc =
    priming P ++ commandTrace P 0x28 ++ commandTrace P (0x08 ||| (dc ||| 0x04)) ++ commandTrace P 0x02 ++
      commandTrace P 0x01 ++ commandTrace P (0x08 ||| ((dc ||| 0x04) &&& 0xFD)) ++
      commandTrace P (0x08 ||| ((dc ||| 0x04) &&& 0xFC)) := by
  rw [priming_eq_nibbles]; rfl

/-! ### Counts -/

theorem length_emits (l : List MicroOp) : (emits l).length = l.length := List.length_map ..

theorem length_priming (P : Params) : (priming P).length = 41 := rfl

theorem length_sendCommand (P : Params) (v : Byte) : (sendCommand P v).length = 19 := rfl

theorem length_commandTrace (P : Params) (v : Byte) : (commandTrace P v).length = 19 := rfl

/-- A toggle is the write of the mask and the items of one command (R110). -/
theorem length_toggleDC (P : Params) (v : Byte) : (toggleDC P v).length = 20 := rfl

theorem length_initItems (P : Params) (dc : Byte) : (initItems P dc).length = 165 := by
  simp [initItems, length_emits, length_priming, length_sendCommand, length_toggleDC]

theorem length_initTrace (P : Params) (dc : Byte) : (initTrace P dc).length = 155 := by
  simp [initTrace_eq_priming_append, length_priming, length_commandTrace]

/-! ### Requested times (R193) -/

theorem requested_priming (P : Params) : requested (priming P) =
    P.tPwr + 4 * (P.tELow + P.tEHigh + P.tNibble) + (P.tPrime0 + P.tPrime1 + P.tPrime2) + P.tShort := by
  simp only [priming_eq_nibbles, requested_append, requested_N, requested]
  omega

section
variable {P : Params} {v : Byte}

theorem requested_commandTrace_long (h : v.toNat < P.longThreshold.toNat) :
    requested (commandTrace P v) = 2 * (P.tELow + P.tEHigh + P.tNibble) + P.tLong := by
  rw [requested_commandTrace, if_pos h]

theorem requested_commandTrace_short (h : P.longThreshold.toNat ≤ v.toNat) :
    requested (commandTrace P v) = 2 * (P.tELow + P.tEHigh + P.tNibble) + P.tShort := by
  rw [requested_commandTrace, if_neg (Nat.not_lt.2 h)]

end

/-- A display-control command is at least `0x08`, so of the short class at every threshold up to 8 (R54, R84). -/
theorem requested_displayControl {P : Params} (h : P.longThreshold.toNat ≤ 8) (dc : Byte) :
    requested (commandTrace P (0x08 ||| dc)) = 2 * (P.tELow + P.tEHigh + P.tNibble) + P.tShort :=
  requested_commandTrace_short <| h.trans <| by rw [BitVec.toNat_or]; exact Nat.left_le_or

/-- HOME and CLEAR are long and the other four commands of INIT short at every threshold from 3 to 8 (R84, R193). -/
theorem requested_initTrace {P : Params} (hlong : 2 < P.longThreshold.toNat) (hshort : P.longThreshold.toNat ≤ 8)
    (dc : Byte) : requested (initTrace P dc) =
      P.tPwr + 4 * (P.tELow + P.tEHigh + P.tNibble) + (P.tPrime0 + P.tPrime1 + P.tPrime2) + P.tShort +
        4 * (2 * (P.tELow + P.tEHigh + P.tNibble) + P.tShort) +
        2 * (2 * (P.tELow + P.tEHigh + P.tNibble) + P.tLong) := by
  have hfunction := requested_commandTrace_short (v := 0x28) (hshort.trans (by decide))
  have hhome := requested_commandTrace_long (v := 0x02) hlong
  have hclear := requested_commandTrace_long (v := 0x01) (Nat.lt_of_succ_lt hlong)
  simp only [initTrace_eq_priming_append, requested_append, requested_priming, hfunction, hhome, hclear,
    requested_displayControl hshort]
  omega

end Sys2Proof.Proofs.InitTrace
end

section
/-! The next state of the presentation operations that INIT runs inline (spec 42_presentation R111, R112, R114, R117, R119;
41_init_sequence R105). -/

namespace Sys2Proof.Proofs.InlineOperations

open Sys2Proof Sys2Proof.Machine Sys2Proof.Claims Sys2Proof.Proofs.Wire Sys2Proof.Proofs.Expansion

/-- A `DC` toggle, run as a request, is the register write and one command (R110). -/
theorem complete_toggleDC_eq_next (v : Byte) (s : State) :
    complete (.ok (toggleDC params v)) s = .next (afterCommand { s with dc := v } (0x08 ||| v)) := by
  rw [complete_toggleDC, exec_sendCmd]

theorem exec_displayOn (s : State) : exec .displayOn s =
    .next (afterCommand { s with dc := s.dc ||| 0x04 } (0x08 ||| (s.dc ||| 0x04))) := complete_toggleDC_eq_next _ s

theorem exec_cursorOff (s : State) : exec .cursorOff s =
    .next (afterCommand { s with dc := s.dc &&& 0xFD } (0x08 ||| (s.dc &&& 0xFD))) := complete_toggleDC_eq_next _ s

theorem exec_blinkOff (s : State) : exec .blinkOff s =
    .next (afterCommand { s with dc := s.dc &&& 0xFE } (0x08 ||| (s.dc &&& 0xFE))) := complete_toggleDC_eq_next _ s

theorem exec_home (s : State) : exec .home s = .next (afterCommand s 0x02) := complete_sendCommand s _

theorem exec_clear (s : State) : exec .clear s = .next (afterCommand s 0x01) := complete_sendCommand s _

end Sys2Proof.Proofs.InlineOperations
end

section
/-! The obligations of the family 41_init_sequence: what INIT leaves, what it transmits, and its tail as five operations
(spec 41_init_sequence R100 to R107). -/

namespace Sys2Proof.Proofs.InitSequence

open Sys2Proof Sys2Proof.Machine Sys2Proof.Claims
open Sys2Proof.Proofs.OperationEffect Sys2Proof.Proofs.Wire Sys2Proof.Proofs.SentView
open Sys2Proof.Proofs.InitTrace Sys2Proof.Proofs.InlineOperations

theorem exec_init (s : State) : exec .init s =
    .next { s with phase := .ready, dc := (s.dc ||| 0x04) &&& 0xFC, data := 0, e := false, rs := false,
                   trace := s.trace ++ initTrace params s.dc } := by
  rw [exec_eq_complete, program, progInit, complete_ok, runItems_initItems, emitted_initItems_eq_initTrace, initDC3_eq]
  rfl

/-- Settles O34: the state after INIT's item list, and the counts and the time of its trace. -/
theorem initRunsWholeSequence : Obligations.InitRunsWholeSequence := by
  intro s
  refine ⟨exec_init s, ⟨_, rfl, length_initItems params s.dc, emitted_initItems_eq_initTrace params s.dc⟩,
    length_initTrace params s.dc, requested_initTrace (by decide) (by decide) s.dc, fun hdc => ?_⟩
  rw [← initDC3_eq, initDC3_of_legal s.dc hdc]

/-- Settles O36: the view of INIT's trace, whose last command carries `DC = 0x04`. -/
theorem initTransmitsFourNibblesThenSixCommands : Obligations.InitTransmitsFourNibblesThenSixCommands := by
  intro P dc dm hdc
  refine ⟨_, rfl, ?_⟩
  rw [(sends_initItems P dc).transfers_eq, initDC3_of_legal dc hdc]
  rfl

/-- Settles O45: each of the six requests appends its command, and the three writes of `DC` make INIT's. -/
theorem initTailIsFiveOperations : Obligations.InitTailIsFiveOperations := by
  intro s
  simp only [exec_sendCmd, exec_displayOn, exec_home, exec_clear, exec_cursorOff, exec_blinkOff, andThen]
  refine ⟨_, rfl, ?_⟩
  have hdc : (s.dc ||| 0x04) &&& 0xFD &&& 0xFE = (s.dc ||| 0x04) &&& 0xFC := initDC3_eq s.dc
  rw [exec_init]
  simp only [afterCommand, hdc, initTrace, List.append_assoc]

end Sys2Proof.Proofs.InitSequence
end

section
/-! The next state of the other presentation operations (spec 42_presentation R110 to R123): the toggles that INIT does not
run inline, the scrolls, and SET_CURSOR case by case. -/

namespace Sys2Proof.Proofs.PresentationEffect

open Sys2Proof Sys2Proof.Machine Sys2Proof.Claims
open Sys2Proof.Proofs.Wire Sys2Proof.Proofs.PositionMap Sys2Proof.Proofs.Expansion Sys2Proof.Proofs.InlineOperations

/-! ### Toggles and scrolls -/

theorem exec_displayOff (s : State) : exec .displayOff s =
    .next (afterCommand { s with dc := s.dc &&& 0xFB } (0x08 ||| (s.dc &&& 0xFB))) := complete_toggleDC_eq_next _ s

theorem exec_cursorOn (s : State) : exec .cursorOn s =
    .next (afterCommand { s with dc := s.dc ||| 0x02 } (0x08 ||| (s.dc ||| 0x02))) := complete_toggleDC_eq_next _ s

theorem exec_blinkOn (s : State) : exec .blinkOn s =
    .next (afterCommand { s with dc := s.dc ||| 0x01 } (0x08 ||| (s.dc ||| 0x01))) := complete_toggleDC_eq_next _ s

/-- A `DM` toggle, run as a request, is the register write and one command (R110). -/
theorem complete_toggleDM_eq_next (v : Byte) (s : State) :
    complete (.ok (toggleDM params v)) s = .next (afterCommand { s with dm := v } (0x04 ||| v)) := by
  rw [complete_toggleDM, exec_sendCmd]

theorem exec_leftToRight (s : State) : exec .leftToRight s =
    .next (afterCommand { s with dm := s.dm ||| 0x02 } (0x04 ||| (s.dm ||| 0x02))) := complete_toggleDM_eq_next _ s

theorem exec_rightToLeft (s : State) : exec .rightToLeft s =
    .next (afterCommand { s with dm := s.dm &&& 0xFD } (0x04 ||| (s.dm &&& 0xFD))) := complete_toggleDM_eq_next _ s

theorem exec_scrollLeft (s : State) : exec .scrollLeft s = .next (afterCommand s 0x18) := complete_sendCommand s _

theorem exec_scrollRight (s : State) : exec .scrollRight s = .next (afterCommand s 0x1C) := complete_sendCommand s _

/-! ### SET_CURSOR (R113) -/

section
variable {col : Byte} (h : col.toNat < 16)
include h

theorem exec_setCursor_row_zero (s : State) : exec (.setCursor col 0) s = .next (afterCommand s (0x80 ||| col)) := by
  rw [exec_setCursor_of_address h (cursorAddress_zero col), setDdramCmd_zero col h, zero_add, exec_sendCmd]

theorem exec_setCursor_row_one (s : State) : exec (.setCursor col 1) s = .next (afterCommand s (0xC0 + col)) := by
  have hbyte : ∀ c : Byte, c.toNat < 16 → 0x80 ||| (0x40 + c) = 0xC0 + c := by decide
  rw [exec_setCursor_of_address h (cursorAddress_one col), setDdramCmd_one col h, hbyte col h, exec_sendCmd]

theorem exec_setCursor_row_other {row : Byte} (h0 : row ≠ 0) (h1 : row ≠ 1) (s : State) :
    exec (.setCursor col row) s = .refused .rowOutOfRange := by
  rw [exec_eq_complete, program, progSetCursor, if_pos (columnInRange_iff.2 h), cursorAddress_other col h0 h1]
  rfl

end

/-- What SET_CURSOR's program can be, where it has one. -/
theorem progSetCursor_cases {P : Params} {col row : Byte} {l : List Item} (h : progSetCursor P col row = .ok l) :
    (16 ≤ col.toNat ∧ l = []) ∨
    (col.toNat < 16 ∧ ∃ a, cursorAddress col row = some a ∧ l = emits (sendCommand P (setDdramCmd a))) := by
  obtain hcol | hcol := Nat.lt_or_ge col.toNat 16
  · rw [progSetCursor, if_pos (columnInRange_iff.2 hcol)] at h
    cases ha : cursorAddress col row with
    | none => rw [ha] at h; cases h
    | some a => rw [ha] at h; cases h; exact .inr ⟨hcol, a, rfl, rfl⟩
  · rw [progSetCursor_of_column_out P row hcol] at h
    cases h; exact .inl ⟨hcol, rfl⟩

end Sys2Proof.Proofs.PresentationEffect
end

section
/-! What the presentation operations send (spec 42_presentation R110, R124): a toggle's item list as the statements write
it, the last wait of a command, and the one command of every operation that is not the SET_CURSOR no-op. -/

namespace Sys2Proof.Proofs.PresentationTrace

open Sys2Proof Sys2Proof.Machine Sys2Proof.Claims
open Sys2Proof.Proofs.OperationEffect Sys2Proof.Proofs.Wire Sys2Proof.Proofs.PresentationEffect

theorem toggleDC_eq_cons (P : Params) (v : Byte) :
    toggleDC P v = .setDC v :: emits (commandTrace P (0x08 ||| v)) := by
  rw [toggleDC, sendCommand_eq_commandTrace]; rfl

theorem toggleDM_eq_cons (P : Params) (v : Byte) :
    toggleDM P v = .setDM v :: emits (commandTrace P (0x04 ||| v)) := by
  rw [toggleDM, sendCommand_eq_commandTrace]; rfl

/-- A command ends with the wait of its class (R83, R84). -/
theorem getLast?_commandTrace (P : Params) (v : Byte) : (commandTrace P v).getLast? =
    some (.w (if v.toNat < P.longThreshold.toNat then P.tLong else P.tShort)) := List.getLast?_concat

/-- A display-control command is of the short class at every threshold up to 8 (R54, R84). -/
theorem getLast?_displayControl {P : Params} (h : P.longThreshold.toNat ≤ 8) (dc : Byte) :
    (commandTrace P (0x08 ||| dc)).getLast? = some (.w P.tShort) := by
  have hle : 8 ≤ (0x08 ||| dc).toNat := by rw [BitVec.toNat_or]; exact Nat.left_le_or
  rw [getLast?_commandTrace, if_neg (Nat.not_lt.2 (h.trans hle))]

/-- The list emits exactly one command. -/
def OneCommand (P : Params) (l : List Item) : Prop := ∃ v, emitted l = commandTrace P v

theorem oneCommand_sendCommand (P : Params) (v : Byte) : OneCommand P (emits (sendCommand P v)) :=
  ⟨v, by rw [emitted_emits, sendCommand_eq_commandTrace]⟩

theorem oneCommand_toggleDC (P : Params) (v : Byte) : OneCommand P (toggleDC P v) :=
  ⟨_, by rw [emitted_toggleDC, sendCommand_eq_commandTrace]⟩

theorem oneCommand_toggleDM (P : Params) (v : Byte) : OneCommand P (toggleDM P v) :=
  ⟨_, by rw [emitted_toggleDM, sendCommand_eq_commandTrace]⟩

/-- A presentation operation that has a program sends one command, or is the SET_CURSOR no-op (R113, R124). -/
theorem presentation_sends {P : Params} {i : Instr} {dc dm : Byte} {l : List Item} (hraw : sendsRaw i = false)
    (hdata : sendsData i = false) (hinit : i ≠ .init) (h : program P i dc dm = .ok l) :
    if cursorNoOp i then l = [] else OneCommand P l := by
  cases i
  case setCursor col row =>
    obtain ⟨hcol, rfl⟩ | ⟨hcol, a, -, rfl⟩ := progSetCursor_cases h
    · have hno : cursorNoOp (.setCursor col row) = true := decide_eq_true hcol
      rw [if_pos hno]
    · have hno : ¬ cursorNoOp (.setCursor col row) = true := by simpa [cursorNoOp] using hcol
      rw [if_neg hno]
      exact oneCommand_sendCommand P _
  case clear | home | scrollLeft | scrollRight => cases h; exact oneCommand_sendCommand P _
  case displayOn | displayOff | cursorOn | cursorOff | blinkOn | blinkOff => cases h; exact oneCommand_toggleDC P _
  case leftToRight | rightToLeft => cases h; exact oneCommand_toggleDM P _
  case init => exact absurd rfl hinit
  case sendData | createGlyph | writeString | writeInt | writeFloat => cases hdata
  all_goals cases hraw

end Sys2Proof.Proofs.PresentationTrace
end

section
/-! The eight toggles as one (spec 42_presentation R110, R124): the register write, then the command that carries the mask
it wrote; and two toggles in a row. -/

namespace Sys2Proof.Proofs.Toggles

open Sys2Proof Sys2Proof.Machine Sys2Proof.Claims
open Sys2Proof.Proofs.OperationEffect Sys2Proof.Proofs.InlineOperations Sys2Proof.Proofs.PresentationEffect

/-- The eight toggles: the operations but INIT that write a mask (R23, R110). -/
abbrev IsToggle (i : Instr) : Prop := i ≠ .init ∧ (writesDC i = true ∨ writesDM i = true)

/-- The command that carries the whole of the mask a toggle writes, as it stands in `s` (R13). -/
def maskCommand (i : Instr) (s : State) : Byte := if writesDC i then 0x08 ||| s.dc else 0x04 ||| s.dm

section
variable {i : Instr}

theorem maskCommand_of_writesDC (h : writesDC i = true) (s : State) : maskCommand i s = 0x08 ||| s.dc := if_pos h

theorem maskCommand_of_writesDM (h : writesDM i = true) (s : State) : maskCommand i s = 0x04 ||| s.dm := by
  cases i
  case leftToRight | rightToLeft => rfl
  all_goals cases h

theorem isToggle_of_writesDM (h : writesDM i = true) : IsToggle i := ⟨(by rintro rfl; cases h), .inr h⟩

/-- A toggle is its register write and then the command that carries the new mask (R110). -/
theorem exec_toggle (hi : IsToggle i) (s : State) :
    exec i s = .next (afterCommand (afterWrites i s) (maskCommand i (afterWrites i s))) := by
  obtain ⟨hinit, hwrites⟩ := hi
  cases i
  case init => exact absurd rfl hinit
  case displayOn => exact exec_displayOn s
  case displayOff => exact exec_displayOff s
  case cursorOn => exact exec_cursorOn s
  case cursorOff => exact exec_cursorOff s
  case blinkOn => exact exec_blinkOn s
  case blinkOff => exact exec_blinkOff s
  case leftToRight => exact exec_leftToRight s
  case rightToLeft => exact exec_rightToLeft s
  all_goals obtain h | h := hwrites <;> cases h

end

theorem afterWrites_trace (i : Instr) (s : State) : (afterWrites i s).trace = s.trace := by cases i <;> rfl

theorem toggle_trace {i : Instr} {s t : State} (hi : IsToggle i) (h : exec i s = .next t) :
    t.trace = s.trace ++ commandTrace params (maskCommand i t) := by
  rw [exec_toggle hi] at h
  cases h
  exact congrArg (· ++ _) (afterWrites_trace i s)

/-! ### Two toggles in a row -/

/-- The register writes and a command's transfer touch different fields. -/
theorem afterWrites_afterCommand (i : Instr) (s : State) (v : Byte) :
    afterWrites i (afterCommand s v) = afterCommand (afterWrites i s) v := by cases i <;> rfl

theorem andThen_toggles {i j : Instr} (hi : IsToggle i) (hj : IsToggle j) (s : State) :
    andThen (exec i s) (exec j) =
      .next (afterCommand (afterCommand (afterWrites j (afterWrites i s)) (maskCommand i (afterWrites i s)))
        (maskCommand j (afterWrites j (afterWrites i s)))) := by
  rw [exec_toggle hi, andThen, exec_toggle hj, afterWrites_afterCommand]
  rfl

theorem setBits_setBits (m b : Byte) : setBits (setBits m b) b = setBits m b := by
  simp [setBits, BitVec.or_assoc]

theorem clearBits_clearBits (m b : Byte) : clearBits (clearBits m b) b = clearBits m b := by
  simp [clearBits, BitVec.and_assoc]

/-- A toggle done again writes the value the mask already has. -/
theorem afterWrites_afterWrites {i : Instr} (hi : i ≠ .init) (s : State) :
    afterWrites i (afterWrites i s) = afterWrites i s := by
  cases i
  case init => exact absurd rfl hi
  case displayOn | cursorOn | blinkOn | leftToRight => simp only [afterWrites, setBits_setBits]
  case displayOff | cursorOff | blinkOff | rightToLeft => simp only [afterWrites, clearBits_clearBits]
  all_goals rfl

theorem equal_toggles_trace {i : Instr} (hi : IsToggle i) (s : State) :
    ∃ t v, andThen (exec i s) (exec i) = .next t ∧
      t.trace = s.trace ++ commandTrace params v ++ commandTrace params v := by
  refine ⟨_, maskCommand i (afterWrites i s), andThen_toggles hi hi s, ?_⟩
  rw [afterWrites_afterWrites hi.1]
  exact congrArg (· ++ _ ++ _) (afterWrites_trace i s)

end Sys2Proof.Proofs.Toggles
end

section
/-! The obligations of the family 42_presentation: the fixed commands, SET_CURSOR's tests, the toggles, and the laws of
the thirteen operations (spec 42_presentation R110 to R124). -/

namespace Sys2Proof.Proofs.Presentation

open Sys2Proof Sys2Proof.Machine Sys2Proof.Claims
open Sys2Proof.Proofs.OperationEffect Sys2Proof.Proofs.BlockState Sys2Proof.Proofs.Wire Sys2Proof.Proofs.PositionMap
open Sys2Proof.Proofs.TransferViews Sys2Proof.Proofs.InitTrace Sys2Proof.Proofs.InlineOperations
open Sys2Proof.Proofs.PresentationEffect Sys2Proof.Proofs.PresentationTrace Sys2Proof.Proofs.Toggles

/-- Settles O26: both commands are below the default threshold, and the next state is given in every state. -/
theorem clearAndHomeSendFixedCommands : Obligations.ClearAndHomeSendFixedCommands := by
  intro a b s
  have htwice : andThen (exec .clear s) (exec .clear) = .next (afterCommand (afterCommand s 0x01) 0x01) := by
    rw [exec_clear, andThen, exec_clear]
  exact ⟨decodeRequest_header _ _ _ _ _ rfl, decodeRequest_header _ _ _ _ _ rfl, exec_clear s, exec_home s,
    bytes_commandTrace params _, bytes_commandTrace params _, getLast?_commandTrace params _,
    getLast?_commandTrace params _, requested_commandTrace_long (by decide), requested_commandTrace_long (by decide),
    _, htwice, rfl, rfl, rfl⟩

/-- Settles O27: the program of a scroll is one command. -/
theorem scrollsSendFixedCommands : Obligations.ScrollsSendFixedCommands :=
  fun s => ⟨exec_scrollLeft s, exec_scrollRight s⟩

/-- Settles O29: the column test, then the position map row by row. -/
theorem setCursorTestsColumnThenRow : Obligations.SetCursorTestsColumnThenRow := by
  intro col row s
  refine ⟨exec_setCursor_of_column_out row s, ?_, ?_, fun hcol h0 h1 => exec_setCursor_row_other hcol h0 h1 s⟩
  · rintro hcol rfl
    exact exec_setCursor_row_zero hcol s
  · rintro hcol rfl
    exact exec_setCursor_row_one hcol s

/-- Settles O30: each program is the toggle of its new mask. -/
theorem toggleComposesMaskThenSends : Obligations.ToggleComposesMaskThenSends := by
  intro P dc dm
  have hDC : ∀ v, (.ok (toggleDC P v) : Program) = .ok (.setDC v :: emits (commandTrace P (0x08 ||| v))) :=
    fun v => congrArg _ (toggleDC_eq_cons P v)
  have hDM : ∀ v, (.ok (toggleDM P v) : Program) = .ok (.setDM v :: emits (commandTrace P (0x04 ||| v))) :=
    fun v => congrArg _ (toggleDM_eq_cons P v)
  exact ⟨hDC _, hDC _, hDC _, hDC _, hDC _, hDC _, hDM _, hDM _, length_commandTrace P⟩

/-- Settles O31: the six next states, the six operation codes, and the class of a display-control command. -/
theorem displayControlTogglesWriteOneBit : Obligations.DisplayControlTogglesWriteOneBit := by
  refine ⟨fun s => ⟨exec_displayOn s, exec_displayOff s, exec_cursorOn s, exec_cursorOff s, exec_blinkOn s,
    exec_blinkOff s⟩, fun a b => ?_, getLast?_displayControl (by decide)⟩
  exact ⟨decodeRequest_header _ _ _ _ _ rfl, decodeRequest_header _ _ _ _ _ rfl, decodeRequest_header _ _ _ _ _ rfl,
    decodeRequest_header _ _ _ _ _ rfl, decodeRequest_header _ _ _ _ _ rfl, decodeRequest_header _ _ _ _ _ rfl⟩

/-- Settles O32: the two next states. -/
theorem entryModeTogglesWriteOneBit : Obligations.EntryModeTogglesWriteOneBit :=
  fun s => ⟨exec_leftToRight s, exec_rightToLeft s⟩

/-- Settles O33: (a) by the operations' programs, (b) and (c) by the toggles' common next state, (d) and (e) by the
registers each operation writes. -/
theorem presentationLawsHold : Obligations.PresentationLawsHold := by
  refine ⟨fun P i dc dm l => presentation_sends, ?_, ?_, fun s => ?_, fun i s hinit h => equal_toggles_trace ⟨hinit, h⟩ s,
    ?_⟩
  · intro i s t hinit hw h
    rw [← maskCommand_of_writesDC hw]
    exact toggle_trace ⟨hinit, .inl hw⟩ h
  · intro i s t hw h
    rw [← maskCommand_of_writesDM hw]
    exact toggle_trace (isToggle_of_writesDM hw) h
  · exact ⟨⟨_, andThen_toggles (by decide) (by decide) s, setBits_and_not s.dc dcDisplayOn⟩,
      ⟨_, andThen_toggles (by decide) (by decide) s, setBits_and_not s.dc dcCursorOn⟩,
      ⟨_, andThen_toggles (by decide) (by decide) s, setBits_and_not s.dc dcBlinkOn⟩,
      ⟨_, andThen_toggles (by decide) (by decide) s, setBits_and_not s.dm dmLeftToRight⟩⟩
  · intro i s t _ _ _ h
    obtain ⟨hdc, hdm, -⟩ := operationsWriteOnlyTheirRegisters i s t h
    exact ⟨hdc, hdm⟩

end Sys2Proof.Proofs.Presentation
end

section
/-! Texts on the wire (spec 43_glyph_and_text R140, R143): the trace of a text, what a receiver and a clock read off it,
and the state a text leaves. -/

namespace Sys2Proof.Proofs.TextTrace

open Sys2Proof Sys2Proof.Machine Sys2Proof.Claims
open Sys2Proof.Proofs.Wire Sys2Proof.Proofs.SentView Sys2Proof.Proofs.Expansion Sys2Proof.Proofs.TransferViews
open Sys2Proof.Proofs.InitTrace

/-! ### The trace of a text -/

@[simp] theorem textTrace_nil (P : Params) : textTrace P [] = [] := rfl

@[simp] theorem textTrace_cons (P : Params) (v : Byte) (p : List Byte) :
    textTrace P (v :: p) = byteTrace P v true ++ textTrace P p := rfl

theorem sendText_eq_textTrace (P : Params) (p : List Byte) : sendText P p = textTrace P p :=
  congrArg p.flatMap (funext fun v => sendByte_eq_byteTrace P v true)

theorem length_textTrace (P : Params) (p : List Byte) : (textTrace P p).length = 18 * p.length := by
  induction p with
  | nil => rfl
  | cons v p ih =>
    have hbyte : (byteTrace P v true).length = 18 := rfl
    rw [textTrace_cons, List.length_append, hbyte, ih, List.length_cons]
    omega

theorem requested_textTrace (P : Params) (p : List Byte) :
    requested (textTrace P p) = 2 * (P.tELow + P.tEHigh + P.tNibble) * p.length := by
  induction p with
  | nil => rfl
  | cons v p ih =>
    rw [textTrace_cons, requested_append, requested_byteTrace, ih, List.length_cons, Nat.mul_add_one, Nat.add_comm]

/-- The two entries latched from a byte join to the byte, whatever follows them (R8, R82). -/
theorem pairUp_latchedFrom_byteTrace_append (P : Params) (v : Byte) (d : Nibble) (f r : Bool) (t : List MicroOp) :
    pairUp (latchedFrom d r false (byteTrace P v f ++ t)) = (f, v) :: pairUp (latchedFrom 0 f false t) := by
  rw [latchedFrom_byteTrace_append, pairUp, nibbles_append]

theorem pairUp_latchedFrom_textTrace (P : Params) (p : List Byte) (d : Nibble) (r : Bool) :
    pairUp (latchedFrom d r false (textTrace P p)) = p.map (fun v => (true, v)) := by
  induction p generalizing d r with
  | nil => rfl
  | cons v p ih => rw [textTrace_cons, pairUp_latchedFrom_byteTrace_append, ih, List.map_cons]

theorem bytes_textTrace (P : Params) (p : List Byte) : bytes (textTrace P p) = p.map (fun v => (true, v)) :=
  pairUp_latchedFrom_textTrace P p 0 false

/-- The wait behind a command latches nothing. -/
theorem bytes_commandTrace_textTrace (P : Params) (v : Byte) (p : List Byte) :
    bytes (commandTrace P v ++ textTrace P p) = (false, v) :: p.map (fun v => (true, v)) := by
  rw [bytes, latched, commandTrace, List.append_assoc, pairUp_latchedFrom_byteTrace_append]
  exact congrArg _ (pairUp_latchedFrom_textTrace P p 0 false)

/-! ### The state after a text -/

/-- A request whose program is a text takes the block to the state after that text. -/
theorem complete_sendText (s : State) (p : List Byte) :
    complete (.ok (emits (sendText params p))) s = .next (afterText s p) := by
  rw [complete_ok, runItems_sendText, sendText_eq_textTrace]; rfl

theorem exec_writeString (p : List Byte) (s : State) : exec (.writeString p) s = .next (afterText s p) :=
  complete_sendText s p

theorem exec_writeInt (v : BitVec 32) (s : State) : exec (.writeInt v) s = .next (afterText s (dec v.toInt)) :=
  complete_sendText s _

/-- A text longer than `FMT_BUF - 1` bytes is refused (R151). -/
theorem exec_writeFloat_of_long {x : BitVec 64} {t : List Byte} (ht : params.fmtFloat x = some t) (hl : 31 < t.length)
    (s : State) : exec (.writeFloat x) s = .refused .floatTextTooLong := by
  rw [exec_eq_complete, program, progWriteFloat, ht]
  exact congrArg (complete · s) (if_pos hl)

/-- A value without a text is refused (R149). -/
theorem exec_writeFloat_of_none {x : BitVec 64} (hx : params.fmtFloat x = none) (s : State) :
    exec (.writeFloat x) s = .refused .floatTextUndefined := by
  rw [exec_eq_complete, program, progWriteFloat, hx]; rfl

/-- A glyph is the set-CGRAM-address command and then a text that is not empty (R140). -/
theorem exec_createGlyph_eq_next (slot : Byte) (g : Vector Byte 8) (s : State) :
    exec (.createGlyph slot g) s =
      .next { s with data := 0, e := false, rs := true,
                     trace := s.trace ++ (commandTrace params (0x40 ||| ((slot &&& 0x7) <<< 3)) ++
                       textTrace params g.toList) } := by
  have hg : g.toList ≠ [] := List.ne_nil_of_length_pos (by simp)
  rw [exec_createGlyph, exec_sendCmd, setCgramCmd_glyphAddress, andThen, exec_writeString, afterText, if_neg hg,
    ← List.append_assoc]
  rfl

/-- The slot modulo 8 has the low three bits of the slot (R33, R140). -/
theorem slot_mod_and_seven : ∀ slot : Byte, BitVec.ofNat 8 (slot.toNat % 8) &&& 0x7 = slot &&& 0x7 := by decide

/-- A set-CGRAM-address command is at least `0x40`, so of the short class at every threshold up to that (R57, R84). -/
theorem requested_setCgram {P : Params} (h : P.longThreshold.toNat ≤ 0x40) (slot : Byte) :
    requested (commandTrace P (0x40 ||| ((slot &&& 0x7) <<< 3))) =
      2 * (P.tELow + P.tEHigh + P.tNibble) + P.tShort :=
  requested_commandTrace_short <| h.trans <| by rw [BitVec.toNat_or]; exact Nat.left_le_or

end Sys2Proof.Proofs.TextTrace
end

section
/-! The decimal text of a number (spec 43_glyph_and_text R146): the model's digits are those of `Nat.digits`, written
most significant first. -/

namespace Sys2Proof.Proofs.DecimalText

open Sys2Proof Sys2Proof.Machine Sys2Proof.Claims

/-! ### One digit -/

theorem isDigit_digitByte {d : Nat} (h : d < 10) : IsDigit (digitByte d) := by
  rw [IsDigit, digitByte_toNat h]; omega

theorem digitByte_ne_zeroDigit {d : Nat} (h : d < 10) (h0 : d ≠ 0) : digitByte d ≠ 0x30 := by
  intro heq
  have hval : 0x30 + d = 0x30 := (digitByte_toNat h).symm.trans (congrArg BitVec.toNat heq)
  omega

/-- A digit behind a text is worth itself, and ten times the text. -/
theorem valueOf_append_digit (p : List Byte) {d : Nat} (h : d < 10) :
    valueOf (p ++ [digitByte d]) = 10 * valueOf p + d := by
  rw [valueOf, List.foldl_append, List.foldl_cons, List.foldl_nil, digitByte_toNat h, Nat.add_sub_cancel_left]; rfl

/-! ### Digits least significant first -/

/-- The text of digits that are listed least significant first. -/
def textOfDigits (l : List Nat) : List Byte := l.reverse.map digitByte

theorem textOfDigits_cons (d : Nat) (l : List Nat) : textOfDigits (d :: l) = textOfDigits l ++ [digitByte d] := by
  simp [textOfDigits]

theorem valueOf_textOfDigits {l : List Nat} (h : ∀ d ∈ l, d < 10) : valueOf (textOfDigits l) = Nat.ofDigits 10 l := by
  induction l with
  | nil => rfl
  | cons d l ih =>
    obtain ⟨hd, hl⟩ := List.forall_mem_cons.1 h
    rw [textOfDigits_cons, valueOf_append_digit _ hd, ih hl, Nat.ofDigits_cons, Nat.add_comm]

theorem digits_lt_ten {m d : Nat} (h : d ∈ Nat.digits 10 m) : d < 10 := Nat.digits_lt_base (by decide) h

theorem head?_textOfDigits_digits {m : Nat} (hm : m ≠ 0) : (textOfDigits (Nat.digits 10 m)).head? ≠ some 0x30 := by
  have hne := Nat.digits_ne_nil_iff_ne_zero (b := 10).2 hm
  rw [textOfDigits, List.head?_map, List.head?_reverse, List.getLast?_eq_some_getLast hne, Option.map_some, ne_eq,
    Option.some_inj]
  exact digitByte_ne_zeroDigit (digits_lt_ten (List.getLast_mem hne)) (Nat.getLast_digit_ne_zero 10 hm)

/-! ### The model's digits -/

/-- The fuel of a number's bits is enough for its decimal digits. -/
theorem digitsOnto_eq {fuel m : Nat} (hm : m ≠ 0) (hfuel : m < 2 ^ fuel) (acc : List Byte) :
    digitsOnto fuel m acc = textOfDigits (Nat.digits 10 m) ++ acc := by
  induction fuel generalizing m acc with
  | zero => omega
  | succ fuel ih =>
    rw [digitsOnto]
    split
    case isTrue hlt => rw [Nat.digits_of_lt 10 m hm hlt]; rfl
    case isFalse hge =>
      rw [ih (by omega) (by omega), Nat.digits_def' (by decide) (Nat.pos_of_ne_zero hm), textOfDigits_cons,
        List.append_assoc, List.singleton_append]

@[simp] theorem digits_zero : digits 0 = [0x30] := by decide

theorem digits_eq {m : Nat} (hm : m ≠ 0) : digits m = textOfDigits (Nat.digits 10 m) := by
  rw [digits, digitsOnto_eq hm Nat.lt_log2_self, List.append_nil]

theorem isDigit_of_mem_digits {m : Nat} {b : Byte} (hb : b ∈ digits m) : IsDigit b := by
  by_cases hm : m = 0
  · rw [hm, digits_zero, List.mem_singleton] at hb
    rw [hb]
    exact isDigit_digitByte (d := 0) (by decide)
  · rw [digits_eq hm, textOfDigits, List.mem_map] at hb
    obtain ⟨d, hd, rfl⟩ := hb
    exact isDigit_digitByte (digits_lt_ten (List.mem_reverse.1 hd))

theorem valueOf_digits (m : Nat) : valueOf (digits m) = m := by
  by_cases hm : m = 0
  · rw [hm, digits_zero]; rfl
  · rw [digits_eq hm, valueOf_textOfDigits fun _ => digits_lt_ten, Nat.ofDigits_digits]

theorem head?_digits {m : Nat} (hm : m ≠ 0) : (digits m).head? ≠ some 0x30 :=
  digits_eq hm ▸ head?_textOfDigits_digits hm

/-- A number has more than `k` digits exactly from `10 ^ k` up, where `k` is not 0: `digits 0` is one digit. -/
theorem lt_length_digits_iff {k : Nat} (hk : k ≠ 0) (m : Nat) : k < (digits m).length ↔ 10 ^ k ≤ m := by
  by_cases hm : m = 0
  · have hpow : 0 < 10 ^ k := Nat.pow_pos (by decide)
    rw [hm, digits_zero, List.length_singleton]
    omega
  · rw [digits_eq hm, textOfDigits, List.length_map, List.length_reverse]
    exact Nat.lt_digits_length_iff (by decide) m

/-! ### The signed text -/

theorem dec_of_nonneg {v : Int} (h : 0 ≤ v) : dec v = digits v.toNat := by
  have habs : v.natAbs = v.toNat := by omega
  rw [dec, if_neg (Int.not_lt.2 h), habs]

theorem dec_of_neg {v : Int} (h : v < 0) : dec v = 0x2D :: digits (-v).toNat := by
  have habs : v.natAbs = (-v).toNat := by omega
  rw [dec, if_pos h, habs]; rfl

theorem dec_ne_nil (v : Int) : dec v ≠ [] := by
  rw [dec]
  split
  · exact List.cons_ne_nil _ _
  · exact digits_ne_nil _

/-- A number of at most ten digits has a text of at most eleven bytes. -/
theorem length_dec_le {v : Int} (h : v.natAbs < 10 ^ 10) : (dec v).length ≤ 11 := by
  have hdigits : (digits v.natAbs).length ≤ 10 := by
    rw [← Nat.not_lt, lt_length_digits_iff (by decide)]
    exact Nat.not_le.2 h
  rw [dec]
  split
  · rw [List.length_cons]; omega
  · omega

/-- A 32-bit operand has at most ten digits. -/
theorem natAbs_toInt32_lt (v : BitVec 32) : v.toInt.natAbs < 10 ^ 10 := by
  have hlo := BitVec.le_toInt v
  have hhi := BitVec.toInt_lt (x := v)
  omega

end Sys2Proof.Proofs.DecimalText
end

section
/-! The default text of a float (spec 43_glyph_and_text R150, R151): the number of millionths is the nearest integer,
its six last digits are the places, and the length follows from its size. -/

namespace Sys2Proof.Proofs.FloatText

open Sys2Proof Sys2Proof.Machine Sys2Proof.Claims Sys2Proof.Proofs.DecimalText

/-! ### The six places -/

theorem isDigit_of_mem_fixedDigits {k m : Nat} {b : Byte} (hb : b ∈ fixedDigits k m) : IsDigit b := by
  induction k generalizing m with
  | zero => cases hb
  | succ k ih =>
    rw [fixedDigits, List.mem_append, List.mem_singleton] at hb
    obtain hb | rfl := hb
    · exact ih hb
    · exact isDigit_digitByte (Nat.mod_lt _ (by decide))

theorem valueOf_fixedDigits (k m : Nat) : valueOf (fixedDigits k m) = m % 10 ^ k := by
  induction k generalizing m with
  | zero => exact (Nat.mod_one m).symm
  | succ k ih =>
    rw [fixedDigits, valueOf_append_digit _ (Nat.mod_lt _ (by decide)), ih, Nat.pow_succ', Nat.mod_mul, Nat.add_comm]

/-! ### Rounding to the nearest integer -/

/-- `q` is the integer nearest to `n / d`, the even one of two (R150). -/
def IsNearestEven (q n d : Nat) : Prop :=
  2 * (q * d) ≤ 2 * n + d ∧ 2 * n ≤ 2 * (q * d) + d ∧
  (2 * (q * d) = 2 * n + d ∨ 2 * n = 2 * (q * d) + d → q % 2 = 0)

/-- An integer is its own nearest integer. -/
theorem isNearestEven_whole (m c : Nat) {d : Nat} (hd : 0 < d) : IsNearestEven (m * c) (m * d * c) d := by
  rw [Nat.mul_right_comm]
  refine ⟨Nat.le_add_right .., Nat.le_add_right .., fun htie => ?_⟩
  omega

theorem isNearestEven_roundHalfEven (n : Nat) {d : Nat} (hd : 0 < d) : IsNearestEven (roundHalfEven n d) n d := by
  obtain ⟨hle, hge⟩ := roundHalfEven_near n hd
  refine ⟨hle, hge, fun htie => ?_⟩
  have hmod : n % d < d := Nat.mod_lt n hd
  have hdiv : n / d * d + n % d = n := Nat.div_add_mod' n d
  revert htie
  rw [roundHalfEven]
  split
  case isTrue hdown => intro htie; omega
  case isFalse =>
    split
    case isTrue hup => rw [Nat.add_mul]; intro htie; omega
    case isFalse =>
      split
      case isTrue heven => exact fun _ => heven
      case isFalse hodd => intro _; omega

/-- A common factor of the fraction changes nothing. -/
theorem IsNearestEven.mul_right {q n c d k : Nat} (h : IsNearestEven q (n * c) d) (hk : 0 < k) :
    IsNearestEven q (n * k * c) (d * k) := by
  obtain ⟨hle, hge, heven⟩ := h
  have hq : 2 * (q * (d * k)) = 2 * (q * d) * k := by ring
  have hn : 2 * (n * k * c) = 2 * (n * c) * k := by ring
  rw [IsNearestEven, hq, hn, ← Nat.add_mul, ← Nat.add_mul]
  exact ⟨Nat.mul_le_mul_right k hle, Nat.mul_le_mul_right k hge,
    fun htie => heven (htie.imp (Nat.eq_of_mul_eq_mul_right hk) (Nat.eq_of_mul_eq_mul_right hk))⟩

/-- Far below a bound, the nearest integer is below it too. -/
theorem IsNearestEven.lt_of_two_mul_lt {q n b c d : Nat} (h : IsNearestEven q (n * c) d) (hc : 0 < c)
    (hn : 2 * n < b * d) : q < b * c := by
  by_contra hq
  have hqd : b * c * d ≤ q * d := Nat.mul_le_mul_right d (Nat.le_of_not_lt hq)
  have hnc : 2 * n * c < b * d * c := Nat.mul_lt_mul_of_pos_right hn hc
  have hb : 0 < b * c := Nat.mul_pos (Nat.pos_of_ne_zero (by rintro rfl; omega)) hc
  have hd : d ≤ b * c * d := Nat.le_mul_of_pos_left d hb
  have hle := h.1
  have hnc' : 2 * n * c = 2 * (n * c) := Nat.mul_assoc ..
  have hbd : b * d * c = b * c * d := Nat.mul_right_comm ..
  omega

/-! ### The millionths of a binary64 value -/

/-- The scaled value is the significand times the weight of its exponent: a subnormal has the scale of exponent 1. -/
theorem scaledAbs_eq (x : BitVec 64) : scaledAbs x = floatMant x * 2 ^ floatScale x := by
  have hcase : ∀ e f : Nat, (if e = 0 then f * 2 else (f + 2 ^ 52) * 2 ^ e) =
      (if e = 0 then f else f + 2 ^ 52) * 2 ^ max e 1 := by
    intro e f
    by_cases he : e = 0
    · simp [he]
    · rw [if_neg he, if_neg he, Nat.max_eq_left (Nat.pos_of_ne_zero he)]
  exact hcase _ _

theorem floatMant_lt (x : BitVec 64) : floatMant x < 2 ^ 53 := by
  have hfrac : floatFrac x < 2 ^ 52 := BitVec.isLt _
  rw [floatMant]
  split <;> omega

section
variable {x : BitVec 64}

/-- A value whose significand ends at or above the units is a whole number, whose millionths are exact. -/
theorem floatMicros_of_whole (h : 1075 ≤ floatScale x) :
    floatMicros x = floatMant x * 2 ^ (floatScale x - 1075) * 10 ^ 6 := if_pos h

theorem scaledAbs_of_whole (h : 1075 ≤ floatScale x) :
    scaledAbs x = floatMant x * 2 ^ (floatScale x - 1075) * 2 ^ 1075 := by
  rw [scaledAbs_eq, Nat.mul_assoc, ← Nat.pow_add, Nat.sub_add_cancel h]

theorem floatMicros_of_fraction (h : ¬1075 ≤ floatScale x) :
    floatMicros x = roundHalfEven (floatMant x * 10 ^ 6) (2 ^ (1075 - floatScale x)) := if_neg h

/-- The significand has 53 bits. -/
theorem two_mul_scaledAbs_lt {k : Nat} (h : floatScale x < k) : 2 * scaledAbs x < 2 ^ 53 * 2 ^ k :=
  calc 2 * scaledAbs x
    _ = floatMant x * 2 ^ (floatScale x + 1) := by rw [scaledAbs_eq, Nat.pow_succ]; ring
    _ ≤ floatMant x * 2 ^ k := Nat.mul_le_mul_left _ (Nat.pow_le_pow_right Nat.two_pos h)
    _ < 2 ^ 53 * 2 ^ k := Nat.mul_lt_mul_of_pos_right (floatMant_lt x) (Nat.two_pow_pos _)

end

/-- The number of millionths is the nearest integer to `|x| * 10^6`, ties to even, scaled by `2^1075` (R150). -/
theorem isNearestEven_floatMicros (x : BitVec 64) :
    IsNearestEven (floatMicros x) (scaledAbs x * 10 ^ 6) (2 ^ 1075) := by
  by_cases h : 1075 ≤ floatScale x
  · rw [floatMicros_of_whole h, scaledAbs_of_whole h]
    exact isNearestEven_whole _ _ (by positivity)
  · have hround := isNearestEven_roundHalfEven (floatMant x * 10 ^ 6) (Nat.two_pow_pos (1075 - floatScale x))
    have hden : 2 ^ 1075 = 2 ^ (1075 - floatScale x) * 2 ^ floatScale x := by
      rw [← Nat.pow_add, Nat.sub_add_cancel (Nat.le_of_not_le h)]
    rw [floatMicros_of_fraction h, scaledAbs_eq, hden]
    exact hround.mul_right (Nat.two_pow_pos _)

/-! ### The text -/

theorem fmtFloat_of_not_finite {x : BitVec 64} (h : floatExp x = 2047) : fmtFloat x = none := by
  rw [fmtFloat, floatFinite, h]; rfl

theorem fmtFloat_of_finite {x : BitVec 64} (h : floatExp x ≠ 2047) : fmtFloat x =
    some ((if x.getLsbD 63 then [0x2D] else []) ++ digits (floatMicros x / 10 ^ 6) ++
      0x2E :: fixedDigits 6 (floatMicros x % 10 ^ 6)) :=
  if_pos (bne_iff_ne.2 h)

/-! ### Its length -/

/-- A value and its millionths pass a large bound together: from `2^52` up a binary64 value is a whole number (R151). -/
theorem le_floatMicros_iff {b : Nat} (hb : 2 ^ 53 ≤ b) (x : BitVec 64) :
    b * 10 ^ 6 ≤ floatMicros x ↔ b * 2 ^ 1075 ≤ scaledAbs x := by
  by_cases h : 1075 ≤ floatScale x
  · rw [floatMicros_of_whole h, scaledAbs_of_whole h, Nat.mul_le_mul_right_iff (by decide),
      Nat.mul_le_mul_right_iff (Nat.two_pow_pos _)]
  · have hfar : 2 * scaledAbs x < b * 2 ^ 1075 :=
      (two_mul_scaledAbs_lt (Nat.lt_of_not_le h)).trans_le (Nat.mul_le_mul_right _ hb)
    exact iff_of_false (Nat.not_le.2 ((isNearestEven_floatMicros x).lt_of_two_mul_lt (by decide) hfar))
      (Nat.not_le.2 ((Nat.le_mul_of_pos_left _ Nat.two_pos).trans_lt hfar))

/-- The integer part has more than `k` digits exactly from `10^k` up, where that is past the fractions. -/
theorem lt_length_integerPart_iff {k : Nat} (hk : k ≠ 0) (hbound : 2 ^ 53 ≤ 10 ^ k) (x : BitVec 64) :
    k < (digits (floatMicros x / 10 ^ 6)).length ↔ 10 ^ k * 2 ^ 1075 ≤ scaledAbs x := by
  rw [lt_length_digits_iff hk, Nat.le_div_iff_mul_le (by decide), le_floatMicros_iff hbound]

/-- The sign, the integer part, the point and the six places. -/
theorem length_of_fmtFloat {x : BitVec 64} {t : List Byte} (h : fmtFloat x = some t) :
    t.length = (if x.getLsbD 63 then 1 else 0) + (digits (floatMicros x / 10 ^ 6)).length + 7 := by
  have hfinite : floatExp x ≠ 2047 := fun hexp => by rw [fmtFloat_of_not_finite hexp] at h; cases h
  rw [fmtFloat_of_finite hfinite, Option.some_inj] at h
  rw [← h, List.length_append, List.length_append, List.length_cons, fixedDigits_length]
  split <;> rfl

end Sys2Proof.Proofs.FloatText
end

section
/-! The obligations of the family 43_glyph_and_text: the glyph upload, the string, and the texts of the two kinds of
number (spec 43_glyph_and_text R140 to R151). -/

namespace Sys2Proof.Proofs.GlyphAndText

open Sys2Proof Sys2Proof.Machine Sys2Proof.Claims
open Sys2Proof.Proofs.RequestDecoder Sys2Proof.Proofs.Expansion Sys2Proof.Proofs.TransferViews
open Sys2Proof.Proofs.InitTrace Sys2Proof.Proofs.TextTrace Sys2Proof.Proofs.DecimalText Sys2Proof.Proofs.FloatText

/-- Settles O37: a command and a text of eight bytes; the address reads the slot's low three bits alone. -/
theorem createGlyphUploadsEightRows : Obligations.CreateGlyphUploadsEightRows := by
  intro slot b p s
  refine ⟨(decodeRequest_header _ _ _ _ _ (by simp)).trans (glyphRequest_toList slot p),
    exec_createGlyph_eq_next slot p s, ?_, bytes_commandTrace_textTrace params _ _, ?_, ?_⟩
  · rw [exec_createGlyph_eq_next, exec_createGlyph_eq_next, slot_mod_and_seven]
  · rw [List.length_append, length_commandTrace, length_textTrace, Vector.length_toList]
  · rw [requested_append, requested_setCgram (P := params) (by decide), requested_textTrace, Vector.length_toList]; rfl

/-- Settles O38: a string is a text, whatever its bytes. -/
theorem writeStringSendsEveryByte : Obligations.WriteStringSendsEveryByte := by
  intro p a b s
  refine ⟨fun hp => decodeRequest_header _ _ _ _ _ ?_, exec_writeString p s, bytes_textTrace params p,
    length_textTrace params p, requested_textTrace params p⟩
  rw [BitVec.toNat_ofNat]
  omega

/-- Settles O39: the program is the text of the signed operand. -/
theorem writeIntSendsDecimalText : Obligations.WriteIntSendsDecimalText := exec_writeInt

/-- Settles O40: the model's digits are those of `Nat.digits`, read from the other end. -/
theorem decimalTextStandsForNumber : Obligations.DecimalTextStandsForNumber :=
  ⟨fun m => ⟨valueOf_digits m, digits_ne_nil m, fun _ => isDigit_of_mem_digits, head?_digits⟩, digits_zero,
    fun _ => ⟨dec_of_nonneg, dec_of_neg⟩,
    fun v => ⟨List.length_pos_iff.2 (dec_ne_nil _), length_dec_le (natAbs_toInt32_lt v)⟩⟩

/-- Settles O41: the three answers of the format. -/
theorem writeFloatSendsTextOrIsRefused : Obligations.WriteFloatSendsTextOrIsRefused := by
  intro x s
  refine ⟨fun t ht hlen => ?_, fun t ht hlen => exec_writeFloat_of_long ht hlen s,
    fun hx => exec_writeFloat_of_none hx s⟩
  rw [exec_writeFloat_of_text ht hlen, exec_writeString]

/-- Settles O42: the millionths are the nearest integer, and the places are its last six digits. -/
theorem floatTextIsRoundedToSixPlaces : Obligations.FloatTextIsRoundedToSixPlaces := by
  intro x
  refine ⟨fmtFloat_of_not_finite, fun hx => ⟨floatMicros x, _, fmtFloat_of_finite hx, fixedDigits_length _ _,
    fun _ => isDigit_of_mem_fixedDigits, ?_, isNearestEven_floatMicros x⟩⟩
  rw [valueOf_fixedDigits, Nat.mod_mod]

/-- Settles O43: the point and the places take seven of the 31 bytes, a minus sign one more. -/
theorem floatTextOverflowsExactlyFromBounds : Obligations.FloatTextOverflowsExactlyFromBounds := by
  intro x t ht
  rw [length_of_fmtFloat ht, ← lt_length_integerPart_iff (by decide) (by decide),
    ← lt_length_integerPart_iff (by decide) (by decide)]
  cases x.getLsbD 63
  case false => simp only [Bool.false_eq_true, if_false, true_and, false_and, or_false]; omega
  case true => simp only [Bool.true_eq_false, if_true, true_and, false_and, false_or]; omega

end Sys2Proof.Proofs.GlyphAndText
end

section
/-! The obligations of the family 60_exceptions: which requests are refused, and the order of the tests (spec
60_exceptions R161, R163, R174). -/

namespace Sys2Proof.Proofs.Exceptions

open Sys2Proof Sys2Proof.Machine Sys2Proof.Safety
open Sys2Proof.Proofs.PositionMap Sys2Proof.Proofs.RequestDecoder Sys2Proof.Proofs.Expansion
open Sys2Proof.Proofs.PresentationEffect Sys2Proof.Proofs.TextTrace

/-! ### Refusals -/

/-- A request to which the spec gives a behaviour completes, in every state (R174): but for SET_CURSOR and WRITE_FLOAT
every request has an item list, which runs to its end. -/
theorem exec_of_defined {i : Instr} (h : defined params i) (s : State) : ∃ t, exec i s = .next t := by
  cases i
  case setCursor col row =>
    obtain hcol | hcol := Nat.lt_or_ge col.toNat 16
    · obtain hout | rfl | rfl := h
      · exact absurd hcol (Nat.not_lt.2 hout)
      · exact ⟨_, exec_setCursor_row_zero hcol s⟩
      · exact ⟨_, exec_setCursor_row_one hcol s⟩
    · exact ⟨s, exec_setCursor_of_column_out row s hcol⟩
  case writeFloat x =>
    obtain ⟨t, ht, hlen⟩ := h
    exact ⟨_, (exec_writeFloat_of_text ht hlen s).trans (exec_writeString t s)⟩
  all_goals exact ⟨_, exec_eq_complete _ s⟩

/-- A request of conditions X2, X4 and X5 is refused, in every state (R161, R174). -/
theorem exec_of_not_defined {i : Instr} (h : ¬ defined params i) (s : State) : ∃ r, exec i s = .refused r := by
  cases i
  case setCursor col row =>
    obtain ⟨hcol, h0, h1⟩ : ¬ 16 ≤ col.toNat ∧ row ≠ 0 ∧ row ≠ 1 := by simpa only [defined, not_or] using h
    exact ⟨_, exec_setCursor_row_other (Nat.not_le.1 hcol) h0 h1 s⟩
  case writeFloat x =>
    cases hx : params.fmtFloat x with
    | none => exact ⟨_, exec_writeFloat_of_none hx s⟩
    | some t => exact ⟨_, exec_writeFloat_of_long hx (Nat.not_le.1 fun hlen => h ⟨t, hx, hlen⟩) s⟩
  all_goals exact absurd trivial h

/-- Settles O46: a request with a behaviour completes, and one without is refused, which is no next state. -/
theorem refusesExactlyUndefinedRequests : Obligations.RefusesExactlyUndefinedRequests := by
  refine fun i s => ⟨⟨fun ⟨t, ht⟩ => ?_, fun h => exec_of_defined h s⟩, fun h => exec_of_not_defined h s⟩
  by_contra h
  obtain ⟨r, hr⟩ := exec_of_not_defined h s
  cases ht.symm.trans hr

/-! ### The order of the tests -/

/-- An operation that carries no payload is illegal with one, whatever its operands are (R64, R66). -/
theorem bare_of_ne_nil {p : List Byte} (h : p ≠ []) (i : Instr) : bare p i = .error .wrongCount :=
  (bare_cases rfl).resolve_left fun ⟨hp, _⟩ => h hp

/-- A request with the wrong payload count is dropped (R66). -/
theorem serve_wrongCount {P : Params} {run : Meaning} {o : Offer} (s : State) (h : decodeOffer o = .error .wrongCount) :
    serve P run o s = .next s := by
  rw [serve, h]

/-- Settles O47: the decoder rejects SET_CURSOR's payload before it runs, and the program tests the column alone. -/
theorem testsComeInTheSpecsOrder : Obligations.TestsComeInTheSpecsOrder := by
  refine ⟨fun a b n p s rest hn hlen hreset hbusy hport => ?_,
    fun col row s hcol _ _ => exec_setCursor_of_column_out row s hcol⟩
  have hp : p ≠ [] := by
    rintro rfl
    exact hn (BitVec.eq_of_toNat_eq hlen.symm)
  have hdecode : decodeOffer (.request (header 0x06 a b n) p) = .error .wrongCount :=
    (decodeRequest_header _ _ _ _ _ hlen).trans (bare_of_ne_nil hp _)
  rw [step_serve hreset hbusy hport, serve_wrongCount _ hdecode]

end Sys2Proof.Proofs.Exceptions
end

section
/-! The table of requested times (spec 70_reset_and_hazards R193): what the forms of an item list count and request, for
all parameters, and on which side of the latency threshold the block's own commands and the LCD command classes stand. -/

namespace Sys2Proof.Proofs.RequestedTimes

open Sys2Proof Sys2Proof.Machine Sys2Proof.Claims
open Sys2Proof.Proofs.Wire Sys2Proof.Proofs.LcdDecoder Sys2Proof.Proofs.Encoding Sys2Proof.Proofs.TransferViews
open Sys2Proof.Proofs.InitTrace Sys2Proof.Proofs.TextTrace Sys2Proof.Proofs.FloatText

/-! ### The forms of an item list -/

/-- A row of R193's table: the list emits `n` micro-operations, whose waits sum to `t` µs. -/
def Takes (l : List Item) (n t : Nat) : Prop := (emitted l).length = n ∧ requested (emitted l) = t

section
variable (P : Params)

theorem takes_sendCommand (v : Byte) : Takes (emits (sendCommand P v)) 19
    (2 * (P.tELow + P.tEHigh + P.tNibble) + if v.toNat < P.longThreshold.toNat then P.tLong else P.tShort) := by
  rw [Takes, emitted_emits, sendCommand_eq_commandTrace]
  exact ⟨length_commandTrace P v, requested_commandTrace P v⟩

theorem takes_sendDatum (v : Byte) : Takes (emits (sendDatum P v)) 18 (2 * (P.tELow + P.tEHigh + P.tNibble)) := by
  rw [Takes, emitted_emits, sendDatum, sendByte_eq_byteTrace]
  exact ⟨rfl, requested_byteTrace P v true⟩

theorem takes_sendText (p : List Byte) : Takes (emits (sendText P p)) (18 * p.length)
    (2 * (P.tELow + P.tEHigh + P.tNibble) * p.length) := by
  rw [Takes, emitted_emits, sendText_eq_textTrace]
  exact ⟨length_textTrace P p, requested_textTrace P p⟩

end

section
variable {P : Params}

theorem takes_sendCommand_long {v : Byte} (h : v.toNat < P.longThreshold.toNat) :
    Takes (emits (sendCommand P v)) 19 (2 * (P.tELow + P.tEHigh + P.tNibble) + P.tLong) := by
  simpa only [if_pos h] using takes_sendCommand P v

theorem takes_sendCommand_short {v : Byte} (h : P.longThreshold.toNat ≤ v.toNat) :
    Takes (emits (sendCommand P v)) 19 (2 * (P.tELow + P.tEHigh + P.tNibble) + P.tShort) := by
  simpa only [if_neg (Nat.not_lt.2 h)] using takes_sendCommand P v

/-- Bits below a class constant take no command back under the threshold (R52, R84). -/
theorem longThreshold_le_or {c : Byte} (h : P.longThreshold.toNat ≤ c.toNat) (x : Byte) :
    P.longThreshold.toNat ≤ (c ||| x).toNat :=
  h.trans <| by rw [BitVec.toNat_or]; exact Nat.left_le_or

/-- A register write emits nothing, so a toggle takes what its command takes (R110, R193). -/
theorem takes_toggleDC (h : P.longThreshold.toNat ≤ 8) (v : Byte) :
    Takes (toggleDC P v) 19 (2 * (P.tELow + P.tEHigh + P.tNibble) + P.tShort) :=
  takes_sendCommand_short (longThreshold_le_or h v)

theorem takes_toggleDM (h : P.longThreshold.toNat ≤ 4) (v : Byte) :
    Takes (toggleDM P v) 19 (2 * (P.tELow + P.tEHigh + P.tNibble) + P.tShort) :=
  takes_sendCommand_short (longThreshold_le_or h v)

theorem takes_glyph (h : P.longThreshold.toNat ≤ 0x40) (a : BitVec 6) (p : List Byte) :
    Takes (emits (sendCommand P (setCgramCmd a) ++ sendText P p)) (19 + 18 * p.length)
      (2 * (P.tELow + P.tEHigh + P.tNibble) + P.tShort + 2 * (P.tELow + P.tEHigh + P.tNibble) * p.length) := by
  obtain ⟨hcommandLength, hcommandTime⟩ := takes_sendCommand_short (longThreshold_le_or (c := 0x40) h (a.setWidth 8))
  obtain ⟨htextLength, htextTime⟩ := takes_sendText P p
  rw [Takes, emits_append, emitted_append, List.length_append, requested_append]
  exact ⟨congrArg₂ _ hcommandLength htextLength, congrArg₂ _ hcommandTime htextTime⟩

theorem takes_initItems (hlong : 2 < P.longThreshold.toNat) (hshort : P.longThreshold.toNat ≤ 8) (dc : Byte) :
    Takes (initItems P dc) 155
      (P.tPwr + 4 * (P.tELow + P.tEHigh + P.tNibble) + (P.tPrime0 + P.tPrime1 + P.tPrime2) + P.tShort +
        4 * (2 * (P.tELow + P.tEHigh + P.tNibble) + P.tShort) +
        2 * (2 * (P.tELow + P.tEHigh + P.tNibble) + P.tLong)) := by
  rw [Takes, emitted_initItems_eq_initTrace]
  exact ⟨length_initTrace P dc, requested_initTrace hlong hshort dc⟩

end

/-! ### The LCD command classes (R52, R84) -/

theorem lcdHomeByte_long : ∀ x, (lcdHomeByte x).toNat < params.longThreshold.toNat := by decide

/-- A command byte of a class is at least the class constant, which is its row's `match` (R52). -/
theorem classConstant_le {i : Instr} {c m k : Byte} (hwf : WellFormed i) (hbyte : encode i = .command c)
    (hrow : lcdRow i = some (m, k)) : m.toNat ≤ c.toNat := by
  have hdecode : decodeOffer (.command c) = .ok i := hbyte ▸ decodeOfEncodeIsIdentity i hwf
  rw [decodeOffer] at hdecode
  cases hclass : decodeLcd c with
  | none => rw [hclass] at hdecode; cases hdecode; cases hrow
  | some j =>
    rw [hclass] at hdecode
    cases hdecode
    obtain ⟨m', k', hrow', hmatch, -⟩ := decodeLcd_some hclass
    cases hrow.symm.trans hrow'
    rw [← hmatch, BitVec.toNat_and]
    exact Nat.and_le_left

/-! ### The texts of numbers -/

/-- WRITE_FLOAT has a program only for a text that fits the buffer (R149, R151). -/
theorem progWriteFloat_ok {P : Params} {x : BitVec 64} {l : List Item} (h : progWriteFloat P x = .ok l) :
    ∃ t, P.fmtFloat x = some t ∧ t.length ≤ P.fmtBuf - 1 ∧ l = emits (sendText P t) := by
  rw [progWriteFloat] at h
  cases ht : P.fmtFloat x with
  | none => rw [ht] at h; cases h
  | some t =>
    simp only [ht] at h
    split at h
    case isTrue => cases h
    case isFalse hlen => cases h; exact ⟨t, rfl, Nat.not_lt.1 hlen, rfl⟩

/-- The default text of a float has a digit, the point and six places (R150). -/
theorem eight_le_length_of_fmtFloat {x : BitVec 64} {t : List Byte} (h : fmtFloat x = some t) : 8 ≤ t.length := by
  have hdigits := List.length_pos_iff.2 (digits_ne_nil (floatMicros x / 10 ^ 6))
  rw [length_of_fmtFloat h]
  omega

end Sys2Proof.Proofs.RequestedTimes
end

section
/-! The obligations of the family 70_reset_and_hazards: reset, the offers a busy block holds off, and the requested times
(spec 70_reset_and_hazards R180, R190, R193, R194). -/

namespace Sys2Proof.Proofs.ResetAndHazards

open Sys2Proof Sys2Proof.Machine Sys2Proof.Claims
open Sys2Proof.Proofs.SequencerRun Sys2Proof.Proofs.Wire Sys2Proof.Proofs.TransferViews
open Sys2Proof.Proofs.PresentationEffect Sys2Proof.Proofs.DecimalText Sys2Proof.Proofs.RequestedTimes

/-- Settles O5: the step is the reset, whatever else the state holds. -/
theorem resetWinsAndEmitsNothing : Obligations.ResetWinsAndEmitsNothing :=
  fun _ hreset => ⟨_, step_reset hreset, rfl, rfl, rfl, rfl, rfl, rfl, rfl, rfl, rfl, rfl, rfl, rfl, rfl, rfl⟩

/-- Settles O14: the step is one of the sequencer, which does not touch the port. -/
theorem busyBlockHoldsOffersOff : Obligations.BusyBlockHoldsOffersOff :=
  fun s hreset hbusy => ⟨_, step_busy hreset hbusy, seqStep_port s⟩

/-- Settles O58: the waits of the transfers, summed. -/
theorem requestedTimesFollowParameters : Obligations.RequestedTimesFollowParameters := by
  intro P dc dm v f
  refine ⟨?_, ⟨_, rfl, (takes_sendDatum P v).2⟩, ⟨_, rfl, (takes_sendCommand P v).2⟩,
    fun hlong hshort => ⟨_, rfl, (takes_initItems hlong hshort dc).2⟩⟩
  rw [nibble_eq_N, requested_N]

/-- Settles O54: each program has a form whose count and time are known, and every command but CLEAR, HOME and a raw one
is of the short class by its class constant. -/
theorem requestedTimesMatchTable : Obligations.RequestedTimesMatchTable := by
  intro i dc dm l _ _ h
  have hlong {v : Byte} (hv : v.toNat < params.longThreshold.toNat) : Takes (emits (sendCommand params v)) 19 3524 :=
    takes_sendCommand_long hv
  have hshort {v : Byte} (hv : params.longThreshold.toNat ≤ v.toNat) : Takes (emits (sendCommand params v)) 19 2041 :=
    takes_sendCommand_short hv
  have hclass {i : Instr} {c m k : Byte} (hwf : WellFormed i) (hbyte : encode i = .command c)
      (hrow : lcdRow i = some (m, k)) (hm : params.longThreshold.toNat ≤ m.toNat) :
      Takes (emits (sendCommand params c)) 19 2041 := hshort (hm.trans (classConstant_le hwf hbyte hrow))
  have hDC (v : Byte) : Takes (toggleDC params v) 19 2041 := takes_toggleDC (by decide) v
  have hDM (v : Byte) : Takes (toggleDM params v) 19 2041 := takes_toggleDM (by decide) v
  cases i
  case init => cases h; exact takes_initItems (by decide) (by decide) dc
  case sendCmd v =>
    cases h
    obtain ⟨hlength, htime⟩ := takes_sendCommand params v
    exact ⟨hlength, htime.trans (apply_ite (2004 + ·) (v.toNat < 4) 1520 37)⟩
  case sendData v => cases h; exact takes_sendDatum params v
  case clear | home | lcdClear => cases h; exact hlong (by decide)
  case lcdHome x => cases h; exact hlong (lcdHomeByte_long x)
  case setCursor col row =>
    dsimp only
    obtain ⟨hcol, rfl⟩ | ⟨hcol, a, -, rfl⟩ := progSetCursor_cases h
    · rw [if_neg (Nat.not_lt.2 hcol)]
      exact ⟨rfl, rfl⟩
    · rw [if_pos hcol]
      exact hshort (longThreshold_le_or (by decide) _)
  case displayOn | displayOff | cursorOn | cursorOff | blinkOn | blinkOff => cases h; exact hDC _
  case leftToRight | rightToLeft => cases h; exact hDM _
  case scrollLeft | scrollRight => cases h; exact hshort (by decide)
  case lcdEntryMode x y => cases h; exact hclass (i := .lcdEntryMode x y) rfl rfl rfl (by decide)
  case lcdDisplayCtrl x y z => cases h; exact hclass (i := .lcdDisplayCtrl x y z) rfl rfl rfl (by decide)
  case lcdShift x y q => cases h; exact hclass (i := .lcdShift x y q) rfl rfl rfl (by decide)
  case lcdFunction x y z q => cases h; exact hclass (i := .lcdFunction x y z q) rfl rfl rfl (by decide)
  case lcdSetCgram a => cases h; exact hclass (i := .lcdSetCgram a) rfl rfl rfl (by decide)
  case lcdSetDdram a => cases h; exact hclass (i := .lcdSetDdram a) rfl rfl rfl (by decide)
  case createGlyph slot g =>
    cases h
    have hglyph := takes_glyph (P := params) (by decide) (glyphAddress slot) g.toList
    rwa [Vector.length_toList] at hglyph
  case writeString p => cases h; exact takes_sendText params p
  case writeInt v =>
    cases h
    exact ⟨_, List.length_pos_iff.2 (dec_ne_nil _), length_dec_le (natAbs_toInt32_lt v), rfl,
      takes_sendText params (dec v.toInt)⟩
  case writeFloat x =>
    obtain ⟨t, ht, hlen, rfl⟩ := progWriteFloat_ok h
    exact ⟨t, ht, eight_le_length_of_fmtFloat ht, hlen, takes_sendText params t⟩

end Sys2Proof.Proofs.ResetAndHazards
end
